-- ==== Sys2Proof/Word.lean ====
section
/-!
DEFINITION. The words of CVAES: bytes, 32-bit words, byte arrays of a fixed length (spec/00_scope.md R7, R8, R10).
-/

namespace Sys2Proof

/-- A byte, an unsigned integer 0 to 255 (R7). -/
abbrev Byte := BitVec 8

/-- A 32-bit word: a command word (R90), a control register as read (R30), the `val` of a response (R98). -/
abbrev Word := BitVec 32

/-- A register of `n` bytes reached by index, byte 0 first (R8). -/
abbrev Bytes (n : Nat) := Vector Byte n

/-- A 16-byte block: the 4x4 matrix whose entry (row r, column c) is byte r + 4*c (R10). -/
abbrev Block := Bytes 16

/-- The byte array whose byte `i` is `f i`. -/
def tabulate {n : Nat} (f : Fin n → Byte) : Bytes n :=
  ⟨⟨List.ofFn f⟩, by simp⟩

/-- The first `n` bytes of a sequence as an array; a byte the sequence does not have is 0. -/
def bytesOfList (n : Nat) (l : List Byte) : Bytes n :=
  tabulate fun i => l.getD i.val 0

end Sys2Proof
end

