-- ==== Sys2Proof/Syntax.lean ====
section
/-!
DEFINITION. The 33 commands of CVAES, one constructor for each row of spec/opcode_table.json (spec/30_encoding.md R93).
An operand has the width of its field (R91), so every term of `Instr` has an encoding.
-/

namespace Sys2Proof

/-- A command with its operands (R91, R93). -/
inductive Instr where
  /-- NOP: do nothing (R221). -/
  | nop
  /-- SRESET: software reset (R222). -/
  | sreset
  /-- CLRERR: clear the error latch (R223). -/
  | clrerr
  /-- RDREG: read control register `n` (R224). -/
  | rdreg (n : Byte)
  /-- WRKEY: write byte `b` at index `a` of KEY (R201). -/
  | wrkey (a : BitVec 16) (b : Byte)
  /-- RDKEY: read byte `a` of KEY (R202). -/
  | rdkey (a : BitVec 16)
  /-- RDRK: read byte `a` of RK (R203). -/
  | rdrk (a : BitVec 16)
  /-- WRBLK: write byte `b` at index `a` of BLK (R204). -/
  | wrblk (a : BitVec 16) (b : Byte)
  /-- RDBLK: read byte `a` of BLK (R205). -/
  | rdblk (a : BitVec 16)
  /-- WRCV: write byte `b` at index `a` of CV (R206). -/
  | wrcv (a : BitVec 16) (b : Byte)
  /-- RDCV: read byte `a` of CV (R207). -/
  | rdcv (a : BitVec 16)
  /-- PUSHI: append byte `b` to IBUF (R208). -/
  | pushi (b : Byte)
  /-- CLRI: empty IBUF (R209). -/
  | clri
  /-- RDI: read byte `a` of IBUF (R210). -/
  | rdi (a : BitVec 16)
  /-- RDO: read byte `a` of OBUF (R211). -/
  | rdo (a : BitVec 16)
  /-- APPO: append the tail of OBUF from offset `a` to IBUF (R212). -/
  | appo (a : BitVec 16)
  /-- GFMUL: the product of `a` and `b` in GF(2^8) (R123). -/
  | gfmul (a b : Byte)
  /-- SUBB: byte substitution on BLK (R134). -/
  | subb
  /-- ISUBB: inverse byte substitution on BLK (R135). -/
  | isubb
  /-- SHROW: row shift on BLK (R137). -/
  | shrow
  /-- ISHROW: inverse row shift on BLK (R139). -/
  | ishrow
  /-- MIXC: column mix on BLK (R141). -/
  | mixc
  /-- IMIXC: inverse column mix on BLK (R143). -/
  | imixc
  /-- ARK: combine BLK with round key `r` (R145). -/
  | ark (r : Byte)
  /-- KEYEXP: expand KEY into RK (R154). -/
  | keyexp
  /-- ENCBLK: encrypt BLK (R162). -/
  | encblk
  /-- DECBLK: decrypt BLK (R163). -/
  | decblk
  /-- PAD: IBUF padded, into OBUF (R171). -/
  | pad
  /-- UNPAD: IBUF with its padding removed, into OBUF (R173). -/
  | unpad
  /-- CBCENC: IBUF encrypted in chained mode, into OBUF (R181). -/
  | cbcenc
  /-- CBCDEC: IBUF decrypted in chained mode, into OBUF (R183). -/
  | cbcdec
  /-- B64ENC: IBUF encoded as text, into OBUF (R193). -/
  | b64enc
  /-- B64DEC: IBUF decoded from text, into OBUF (R195). -/
  | b64dec
  deriving DecidableEq, Repr

/-- The mnemonic of a command (R93). -/
def Instr.mnemonic : Instr → String
  | .nop => "NOP"
  | .sreset => "SRESET"
  | .clrerr => "CLRERR"
  | .rdreg _ => "RDREG"
  | .wrkey _ _ => "WRKEY"
  | .rdkey _ => "RDKEY"
  | .rdrk _ => "RDRK"
  | .wrblk _ _ => "WRBLK"
  | .rdblk _ => "RDBLK"
  | .wrcv _ _ => "WRCV"
  | .rdcv _ => "RDCV"
  | .pushi _ => "PUSHI"
  | .clri => "CLRI"
  | .rdi _ => "RDI"
  | .rdo _ => "RDO"
  | .appo _ => "APPO"
  | .gfmul _ _ => "GFMUL"
  | .subb => "SUBB"
  | .isubb => "ISUBB"
  | .shrow => "SHROW"
  | .ishrow => "ISHROW"
  | .mixc => "MIXC"
  | .imixc => "IMIXC"
  | .ark _ => "ARK"
  | .keyexp => "KEYEXP"
  | .encblk => "ENCBLK"
  | .decblk => "DECBLK"
  | .pad => "PAD"
  | .unpad => "UNPAD"
  | .cbcenc => "CBCENC"
  | .cbcdec => "CBCDEC"
  | .b64enc => "B64ENC"
  | .b64dec => "B64DEC"

end Sys2Proof
end

