-- ==== Sys2Proof/Decode.lean ====
section
/-!
DEFINITION. Decoding and encoding of command words (spec/30_encoding.md R90 to R97, R101).
`decode` is total on the 2^32 words and rejects by name; `encode` is written from the same formats (R91).
-/

namespace Sys2Proof

/-- The five formats of a command word (R91). -/
inductive Format where
  | N | I | A | AI | G
  deriving DecidableEq, Repr

/-- The format of a command (R91). -/
def Instr.format : Instr → Format
  | .nop => .N
  | .sreset => .N
  | .clrerr => .N
  | .rdreg _ => .I
  | .wrkey _ _ => .AI
  | .rdkey _ => .A
  | .rdrk _ => .A
  | .wrblk _ _ => .AI
  | .rdblk _ => .A
  | .wrcv _ _ => .AI
  | .rdcv _ => .A
  | .pushi _ => .I
  | .clri => .N
  | .rdi _ => .A
  | .rdo _ => .A
  | .appo _ => .A
  | .gfmul _ _ => .G
  | .subb => .N
  | .isubb => .N
  | .shrow => .N
  | .ishrow => .N
  | .mixc => .N
  | .imixc => .N
  | .ark _ => .I
  | .keyexp => .N
  | .encblk => .N
  | .decblk => .N
  | .pad => .N
  | .unpad => .N
  | .cbcenc => .N
  | .cbcdec => .N
  | .b64enc => .N
  | .b64dec => .N

/-- The opcode of a command, bits 31:24 of its word (R93). -/
def Instr.opcode : Instr → Byte
  | .nop => 0x00
  | .sreset => 0x01
  | .clrerr => 0x02
  | .rdreg _ => 0x03
  | .wrkey _ _ => 0x10
  | .rdkey _ => 0x11
  | .rdrk _ => 0x12
  | .wrblk _ _ => 0x14
  | .rdblk _ => 0x15
  | .wrcv _ _ => 0x16
  | .rdcv _ => 0x17
  | .pushi _ => 0x18
  | .clri => 0x19
  | .rdi _ => 0x1A
  | .rdo _ => 0x1B
  | .appo _ => 0x1C
  | .gfmul _ _ => 0x20
  | .subb => 0x21
  | .isubb => 0x22
  | .shrow => 0x23
  | .ishrow => 0x24
  | .mixc => 0x25
  | .imixc => 0x26
  | .ark _ => 0x27
  | .keyexp => 0x28
  | .encblk => 0x29
  | .decblk => 0x2A
  | .pad => 0x30
  | .unpad => 0x31
  | .cbcenc => 0x32
  | .cbcdec => 0x33
  | .b64enc => 0x34
  | .b64dec => 0x35

/-- Why a word is no command (R94, R95). Both raise IllegalCommand (R251). -/
inductive DecodeError where
  /-- The opcode is one of the 223 reserved values (R95). -/
  | reservedOpcode (opcode : Byte)
  /-- The opcode is assigned and a bit its format marks `0` is 1 (R94). -/
  | mustBeZero (opcode : Byte)
  deriving DecidableEq, Repr

/-! ### The fields of a command word (R91, R92) -/

/-- `cmd[31:24]`. -/
def opcodeField (w : Word) : Byte := w.extractLsb' 24 8

/-- `cmd[23:8]`. -/
def addr16Field (w : Word) : BitVec 16 := w.extractLsb' 8 16

/-- `cmd[7:0]`: imm8 of the formats I and AI, b of the format G. -/
def imm8Field (w : Word) : Byte := w.extractLsb' 0 8

/-- `cmd[15:8]`: a of the format G. -/
def aField (w : Word) : Byte := w.extractLsb' 8 8

/-- The bits a format requires to be zero (R91). -/
def mustBeZeroOk : Format → Word → Bool
  | .N, w => w.extractLsb' 0 24 = 0
  | .I, w => w.extractLsb' 8 16 = 0
  | .A, w => w.extractLsb' 0 8 = 0
  | .AI, _ => true
  | .G, w => w.extractLsb' 16 8 = 0

/-- The command of an assigned opcode with the fields of `w`, must-be-zero bits not looked at (R91, R93);
`none` for a reserved opcode (R95). -/
def commandOf (w : Word) : Option Instr :=
  match (opcodeField w).toNat with
  | 0x00 => some .nop
  | 0x01 => some .sreset
  | 0x02 => some .clrerr
  | 0x03 => some (.rdreg (imm8Field w))
  | 0x10 => some (.wrkey (addr16Field w) (imm8Field w))
  | 0x11 => some (.rdkey (addr16Field w))
  | 0x12 => some (.rdrk (addr16Field w))
  | 0x14 => some (.wrblk (addr16Field w) (imm8Field w))
  | 0x15 => some (.rdblk (addr16Field w))
  | 0x16 => some (.wrcv (addr16Field w) (imm8Field w))
  | 0x17 => some (.rdcv (addr16Field w))
  | 0x18 => some (.pushi (imm8Field w))
  | 0x19 => some .clri
  | 0x1A => some (.rdi (addr16Field w))
  | 0x1B => some (.rdo (addr16Field w))
  | 0x1C => some (.appo (addr16Field w))
  | 0x20 => some (.gfmul (aField w) (imm8Field w))
  | 0x21 => some .subb
  | 0x22 => some .isubb
  | 0x23 => some .shrow
  | 0x24 => some .ishrow
  | 0x25 => some .mixc
  | 0x26 => some .imixc
  | 0x27 => some (.ark (imm8Field w))
  | 0x28 => some .keyexp
  | 0x29 => some .encblk
  | 0x2A => some .decblk
  | 0x30 => some .pad
  | 0x31 => some .unpad
  | 0x32 => some .cbcenc
  | 0x33 => some .cbcdec
  | 0x34 => some .b64enc
  | 0x35 => some .b64dec
  | _ => none

/-- Decoding of one command word: the opcode first (R95), then the must-be-zero bits (R94). -/
def decode (w : Word) : Except DecodeError Instr :=
  match commandOf w with
  | none => .error (.reservedOpcode (opcodeField w))
  | some i => if mustBeZeroOk i.format w then .ok i else .error (.mustBeZero (opcodeField w))

/-- What R101 calls decoding: a total function from the word and the ERR field. -/
inductive Decoded where
  | dropped
  | illegal
  | command (i : Instr)
  deriving DecidableEq, Repr

/-- R101, line by line. -/
def decodeCommand (err : BitVec 4) (w : Word) : Decoded :=
  if err ≠ 0 ∧ 4 ≤ (opcodeField w).toNat then .dropped
  else match decode w with
    | .error _ => .illegal
    | .ok i => .command i

/-! ### The encoder (R91) -/

/-- Opcode and 24 zero bits. -/
def encodeN (op : Byte) : Word := op ++ (0 : BitVec 24)

/-- Opcode, 16 zero bits, imm8. -/
def encodeI (op imm8 : Byte) : Word := op ++ (0 : BitVec 16) ++ imm8

/-- Opcode, addr16, 8 zero bits. -/
def encodeA (op : Byte) (addr16 : BitVec 16) : Word := op ++ addr16 ++ (0 : BitVec 8)

/-- Opcode, addr16, imm8. -/
def encodeAI (op : Byte) (addr16 : BitVec 16) (imm8 : Byte) : Word := op ++ addr16 ++ imm8

/-- Opcode, 8 zero bits, a, b. -/
def encodeG (op a b : Byte) : Word := op ++ (0 : BitVec 8) ++ a ++ b

/-- The word of a command (R91, R93). -/
def encode : Instr → Word
  | .nop => encodeN 0x00
  | .sreset => encodeN 0x01
  | .clrerr => encodeN 0x02
  | .rdreg n => encodeI 0x03 n
  | .wrkey a b => encodeAI 0x10 a b
  | .rdkey a => encodeA 0x11 a
  | .rdrk a => encodeA 0x12 a
  | .wrblk a b => encodeAI 0x14 a b
  | .rdblk a => encodeA 0x15 a
  | .wrcv a b => encodeAI 0x16 a b
  | .rdcv a => encodeA 0x17 a
  | .pushi b => encodeI 0x18 b
  | .clri => encodeN 0x19
  | .rdi a => encodeA 0x1A a
  | .rdo a => encodeA 0x1B a
  | .appo a => encodeA 0x1C a
  | .gfmul a b => encodeG 0x20 a b
  | .subb => encodeN 0x21
  | .isubb => encodeN 0x22
  | .shrow => encodeN 0x23
  | .ishrow => encodeN 0x24
  | .mixc => encodeN 0x25
  | .imixc => encodeN 0x26
  | .ark r => encodeI 0x27 r
  | .keyexp => encodeN 0x28
  | .encblk => encodeN 0x29
  | .decblk => encodeN 0x2A
  | .pad => encodeN 0x30
  | .unpad => encodeN 0x31
  | .cbcenc => encodeN 0x32
  | .cbcdec => encodeN 0x33
  | .b64enc => encodeN 0x34
  | .b64dec => encodeN 0x35

/-! ### The table of R93 -/

/-- One row of R93: a word `w` is this command when `w AND mask = pattern`. -/
structure OpcodeRow where
  mnemonic : String
  pattern : Word
  mask : Word
  deriving DecidableEq, Repr

/-- The rows of R93, transcribed from the spec's table and not used by `decode`: the two are held against each other. -/
def opcodeTable : List OpcodeRow := [
  ⟨"NOP", 0x00000000, 0xFFFFFFFF⟩,
  ⟨"SRESET", 0x01000000, 0xFFFFFFFF⟩,
  ⟨"CLRERR", 0x02000000, 0xFFFFFFFF⟩,
  ⟨"RDREG", 0x03000000, 0xFFFFFF00⟩,
  ⟨"WRKEY", 0x10000000, 0xFF000000⟩,
  ⟨"RDKEY", 0x11000000, 0xFF0000FF⟩,
  ⟨"RDRK", 0x12000000, 0xFF0000FF⟩,
  ⟨"WRBLK", 0x14000000, 0xFF000000⟩,
  ⟨"RDBLK", 0x15000000, 0xFF0000FF⟩,
  ⟨"WRCV", 0x16000000, 0xFF000000⟩,
  ⟨"RDCV", 0x17000000, 0xFF0000FF⟩,
  ⟨"PUSHI", 0x18000000, 0xFFFFFF00⟩,
  ⟨"CLRI", 0x19000000, 0xFFFFFFFF⟩,
  ⟨"RDI", 0x1A000000, 0xFF0000FF⟩,
  ⟨"RDO", 0x1B000000, 0xFF0000FF⟩,
  ⟨"APPO", 0x1C000000, 0xFF0000FF⟩,
  ⟨"GFMUL", 0x20000000, 0xFFFF0000⟩,
  ⟨"SUBB", 0x21000000, 0xFFFFFFFF⟩,
  ⟨"ISUBB", 0x22000000, 0xFFFFFFFF⟩,
  ⟨"SHROW", 0x23000000, 0xFFFFFFFF⟩,
  ⟨"ISHROW", 0x24000000, 0xFFFFFFFF⟩,
  ⟨"MIXC", 0x25000000, 0xFFFFFFFF⟩,
  ⟨"IMIXC", 0x26000000, 0xFFFFFFFF⟩,
  ⟨"ARK", 0x27000000, 0xFFFFFF00⟩,
  ⟨"KEYEXP", 0x28000000, 0xFFFFFFFF⟩,
  ⟨"ENCBLK", 0x29000000, 0xFFFFFFFF⟩,
  ⟨"DECBLK", 0x2A000000, 0xFFFFFFFF⟩,
  ⟨"PAD", 0x30000000, 0xFFFFFFFF⟩,
  ⟨"UNPAD", 0x31000000, 0xFFFFFFFF⟩,
  ⟨"CBCENC", 0x32000000, 0xFFFFFFFF⟩,
  ⟨"CBCDEC", 0x33000000, 0xFFFFFFFF⟩,
  ⟨"B64ENC", 0x34000000, 0xFFFFFFFF⟩,
  ⟨"B64DEC", 0x35000000, 0xFFFFFFFF⟩]

/-- The command the decoder reads from a word numbered as spec/opcode_table.json numbers it. A command is one 32-bit
word presented whole (R90), so there is no byte order to apply; bits from `nbits` on are 0. -/
def decodeTableWord (nbits w : Nat) : Option Instr :=
  match decode (BitVec.ofNat 32 (w % 2 ^ nbits)) with
  | .ok i => some i
  | .error _ => none

end Sys2Proof
end

