-- ==== Sys2Proof/Config.lean ====
section
/-!
DEFINITION. What an implementation of CVAES fixes: the bounds of the one open parameter BUFCAP (spec/00_scope.md R5)
and the identity value (spec/10_state.md R30). The spec leaves no value undefined (R288), so there is no free value here.
-/

namespace Sys2Proof.Config

/-- The least capacity an implementation may have (R5). -/
def bufcapMin : Nat := 64

/-- The greatest capacity an implementation may have (R5). -/
def bufcapMax : Nat := 65535

/-- The capacity a test bench uses unless it says otherwise (R5); the value `State.reset` gives the register CAP.
DESIGN CHOICE (log 1): the parameter itself is the field `cap` of the state, which no step changes. -/
def bufcapDefault : BitVec 16 := 4096

/-- The hardwired content of the register ID, ASCII "CVAE" (R30). -/
def idValue : Word := 0x43564145

end Sys2Proof.Config
end

