-- ==== Sys2Proof/Machine/State.lean ====
section
/-!
DEFINITION. The state of CVAES (spec/10_state.md R20 to R37), its reset value (R36), and the two ways a step can fail to
answer a next state, neither of which this machine takes (spec/00_scope.md R6, spec/70_reset_and_hazards.md R288).
-/

namespace Sys2Proof.Machine

/-- One response (spec/30_encoding.md R98): the completion code and the value read. -/
structure Response where
  cc : Byte
  val : Word
  deriving DecidableEq, Repr

/-- What the host does at the port: it issues a command word (R90), or it asserts the hardware reset between two
commands (spec/70_reset_and_hazards.md R280). DESIGN CHOICE (log 2). -/
inductive HostEvent where
  | command (w : Word)
  | reset
  deriving DecidableEq, Repr

/-- A buffer memory: the bytes that differ from what an unlisted address reads as, addresses strictly rising. The
operations and the canonical form are in Machine/Ops.lean. -/
abbrev Memory := List Host.Cell

/-- The architectural state of CVAES (R20), with the model's own two port fields at the end. -/
structure State where
  /-- KEY, the cipher key (R21). -/
  key : Bytes 32
  /-- RK, the round key schedule: word i is bytes 4*i to 4*i+3, round key r is bytes 16*r to 16*r+15 (R22). -/
  rk : Bytes 240
  /-- BLK, the block being transformed (R23). -/
  blk : Block
  /-- CV, the chaining value (R24). -/
  cv : Block
  /-- IBUF, the input buffer; the bytes below ILEN are valid (R25). -/
  ibuf : Memory
  /-- ILEN, the number of valid bytes of IBUF (R25, R30). -/
  ilen : BitVec 16
  /-- OBUF, the output buffer; the bytes below OLEN are valid (R26). -/
  obuf : Memory
  /-- OLEN, the number of valid bytes of OBUF (R26, R30). -/
  olen : BitVec 16
  /-- KVALID, STATUS bit 8: RK is the expansion of KEY (R27). -/
  kvalid : Bool
  /-- ERR, STATUS bits 3:0: the code of the latched error, 0 = none (R28). -/
  err : BitVec 4
  /-- ERRCMD: the command word that raised the latched error (R29). -/
  errcmd : Word
  /-- CAP, hardwired to BUFCAP, the capacity of IBUF and of OBUF (R30; spec/00_scope.md R5). No step changes it (log 1). -/
  cap : BitVec 16
  /-- The model's own: what the host does from now on, the next event first (log 2). -/
  port : List HostEvent
  /-- The model's own: the responses returned so far, oldest first (R286; log 3). -/
  resps : List Response
  deriving DecidableEq, Repr

/-- Reasons for which the machine stops. There are none: every command word ends with a response in every state
(R6, R98, R288), an error of the spec being a next state (spec/60_exceptions.md R259). That is safe (log 16). -/
inductive Fault where
  deriving DecidableEq, Repr

/-- Reasons for which the model gives no meaning. -/
inductive Refusal where
  /-- An instruction with no meaning yet, raised by an arm of `exec` alone; no arm raises it. Safe: a run stops. -/
  | notModelled (mnemonic : String)
  deriving DecidableEq, Repr

/-- The state after reset for the capacity `cap`: every value is R36's. -/
def State.resetWith (cap : BitVec 16) : State where
  key := Vector.replicate 32 0
  rk := Vector.replicate 240 0
  blk := Vector.replicate 16 0
  cv := Vector.replicate 16 0
  ibuf := []
  ilen := 0
  obuf := []
  olen := 0
  kvalid := false
  err := 0
  errcmd := 0
  cap := cap
  port := []
  resps := []

/-- The machine right after reset (R36, R281), with the test bench's capacity (R5, log 1). -/
def State.reset : State := State.resetWith Config.bufcapDefault

end Sys2Proof.Machine
end

