-- ==== Sys2Proof/Machine/Flags.lean ====
section
/-!
DEFINITION. The flag KVALID, the error latch ERR with ERRCMD, and the control registers computed from them
(spec/10_state.md R27 to R31; spec/60_exceptions.md R250, R259, R261). The machine has no arithmetic flags (R28).
-/

namespace Sys2Proof.Machine

/-- The six errors (R250). -/
inductive ErrorCode where
  | illegalCommand | badAddress | noKeySchedule | lengthError | paddingError | overflow
  deriving DecidableEq, Repr

/-- The code of an error as ERR holds it (R250). -/
def ErrorCode.code : ErrorCode → BitVec 4
  | .illegalCommand => 1
  | .badAddress => 2
  | .noKeySchedule => 3
  | .lengthError => 4
  | .paddingError => 5
  | .overflow => 6

/-- The completion code of an error: its code as 8 bits (R250). -/
def ErrorCode.cc (e : ErrorCode) : Byte := e.code.setWidth 8

/-- Completion code OK (R250). -/
def ccOk : Byte := 0x00

/-- Completion code Dropped (R250, R257). -/
def ccDropped : Byte := 0x0F

/-- STATUS = (KVALID << 8) OR ERR (R31). -/
def statusWord (s : State) : Word :=
  ((if s.kvalid then 1 else 0) <<< 8) ||| s.err.setWidth 32

/-- The latch after a command with word `w` raised `e`: the first error sticks (R28, R259, R262). -/
def State.latchError (e : ErrorCode) (w : Word) (s : State) : State :=
  if s.err = 0 then { s with err := e.code, errcmd := w } else s

/-- Leaving the latched state: ERR and ERRCMD to 0 and nothing else (R223, R261). -/
def State.clearLatch (s : State) : State :=
  { s with err := 0, errcmd := 0 }

end Sys2Proof.Machine
end

