-- ==== Sys2Proof/Machine/Ops.lean ====
section
/-!
DEFINITION. The operations the commands share: the buffer memories (spec/10_state.md R25, R26; spec/20_memory.md R60,
R65), the response (spec/30_encoding.md R98), raising an error, which is this machine's taking of an exception
(spec/60_exceptions.md R259), the drop while an error is latched (R257), the key guard (R253) and reset
(spec/70_reset_and_hazards.md R280, R281).
-/

namespace Sys2Proof.Machine

/-- The outcome of a step or of a meaning. -/
abbrev Result := Host.Outcome State Fault Refusal

/-! ### Buffer memories -/

/-- What an unlisted address reads as. DESIGN CHOICE (log 6): the spec gives such a byte no value (R25, R26) and no
command of a reachable state reads one that no command wrote. -/
def unlistedByte : Byte := 0

/-- The byte at address `a`. -/
def Memory.read : Memory → Nat → Byte
  | [], _ => unlistedByte
  | (a', b') :: m, a => if a = a' then b' else Memory.read m a

/-- A cell in front of a memory, left out where it says what an unlisted address reads as. -/
def Memory.cons (a : Nat) (b : Byte) (m : Memory) : Memory :=
  if b = unlistedByte then m else (a, b) :: m

/-- `m` with the byte `b` at address `a`, in the canonical form. -/
def Memory.write : Memory → Nat → Byte → Memory
  | [], a, b => Memory.cons a b []
  | (a', b') :: m, a, b =>
    if a < a' then Memory.cons a b ((a', b') :: m)
    else if a = a' then Memory.cons a b m
    else (a', b') :: Memory.write m a b

/-- The bytes `bs` written at consecutive addresses from `a` on. -/
def Memory.writeList : Memory → Nat → List Byte → Memory
  | m, _, [] => m
  | m, a, b :: bs => Memory.writeList (Memory.write m a b) (a + 1) bs

/-- The memory that holds `bs` from address `a` on and nothing else. -/
def Memory.ofList : Nat → List Byte → Memory
  | _, [] => []
  | a, b :: bs => Memory.cons a b (Memory.ofList (a + 1) bs)

/-- The sequence of the first `n` bytes, `X[0..n)` (spec/00_scope.md R8). -/
def Memory.toList (m : Memory) (n : Nat) : List Byte :=
  (List.range n).map (Memory.read m)

/-- The canonical form from address `lo` on: addresses strictly rising, no byte an unlisted address reads as. -/
def Memory.wfFrom : Nat → Memory → Bool
  | _, [] => true
  | lo, (a, b) :: m => decide (lo ≤ a) && decide (b ≠ unlistedByte) && Memory.wfFrom (a + 1) m

/-- The canonical form, in which equal memories are equal lists. -/
def Memory.wf (m : Memory) : Bool := Memory.wfFrom 0 m

/-- Every listed address is below `n`. -/
def Memory.below (n : Nat) (m : Memory) : Bool := m.all fun c => decide (c.1 < n)

/-- `IBUF[0..ILEN)`, the valid content of IBUF (R25). -/
def State.input (s : State) : List Byte := s.ibuf.toList s.ilen.toNat

/-- `OBUF[0..OLEN)`, the valid content of OBUF (R26). -/
def State.output (s : State) : List Byte := s.obuf.toList s.olen.toNat

/-- The whole content of OBUF replaced by `bs`, OLEN its length (R26). -/
def State.setOutput (bs : List Byte) (s : State) : State :=
  { s with obuf := Memory.ofList 0 bs, olen := BitVec.ofNat 16 bs.length }

/-- `bs` appended to IBUF at ILEN, ILEN increased by its length (R25). -/
def State.appendInput (bs : List Byte) (s : State) : State :=
  { s with ibuf := s.ibuf.writeList s.ilen.toNat bs, ilen := s.ilen + BitVec.ofNat 16 bs.length }

/-- IBUF emptied, ILEN 0 (R209). The bytes no longer valid are not kept (DEDUCED, log 7). -/
def State.clearInput (s : State) : State :=
  { s with ibuf := [], ilen := 0 }

/-! ### The end of a command -/

/-- `respond(cc, val)` (R9, R98): the command at the head of the port has ended and its response is returned. -/
def State.respond (cc : Byte) (val : Word) (s : State) : State :=
  { s with port := s.port.tail, resps := s.resps ++ [⟨cc, val⟩] }

/-- A command that executed: `respond(0x00, val)` in the state its writes left (R98). -/
def complete (val : Word) (s : State) : Result :=
  .next (s.respond ccOk val)

/-- `raise E` in the command whose word is `w` (R259): no state changes but the latch, the response is (code, 0).
This is the taking of an exception: ERR saves the code, ERRCMD the command word. -/
def raise (e : ErrorCode) (w : Word) (s : State) : Result :=
  .next ((s.latchError e w).respond e.cc 0)

/-- The response of a command that was not executed because an error is latched (R257). -/
def drop (s : State) : Result :=
  .next (s.respond ccDropped 0)

/-- First check of every command that is not exempt (R257, R258 line 1). -/
def unlessLatched (s : State) (k : Result) : Result :=
  if s.err = 0 then k else drop s

/-- Check of the commands that need a key schedule (R253, R258 line 5); `w` is the command word. -/
def requireKey (w : Word) (s : State) (k : Result) : Result :=
  if s.kvalid then k else raise .noKeySchedule w s

/-- Check of a result of `n` bytes against the capacity (R256, R258 line 7); `w` is the command word. -/
def requireRoom (n : Nat) (w : Word) (s : State) (k : Result) : Result :=
  if s.cap.toNat < n then raise .overflow w s else k

/-- The return from the latched state (R223, R261). -/
def returnFromError (s : State) : State := s.clearLatch

/-- A word that is no command (R94, R95, R101): dropped while an error is latched and its opcode is 0x04 or above,
else IllegalCommand (R251, R257, R258 lines 1 to 3). -/
def rejectWord (w : Word) (s : State) : Result :=
  if 4 ≤ (opcodeField w).toNat then unlessLatched s (raise .illegalCommand w s)
  else raise .illegalCommand w s

/-! ### Reset and the port -/

/-- Every piece of architectural state at its reset value (R36, R281); CAP is hardwired, and what the host issues and
has received is no state of the core. -/
def State.resetCore (s : State) : State :=
  { State.resetWith s.cap with port := s.port, resps := s.resps }

/-- The hardware reset, an event between two commands (R280): the core is reset and there is no response (log 5). -/
def hardwareReset (s : State) : Result :=
  .next { s.resetCore with port := s.port.tail }

/-- What the host does next, if anything. -/
def State.nextEvent (s : State) : Option HostEvent := s.port.head?

/-- No command is offered: the core holds its state and does nothing (R271, R281; DEDUCED, log 4). -/
def idle (s : State) : Result := .next s

end Sys2Proof.Machine
end

