-- ==== Sys2Proof/Machine/Operands.lean ====
section
/-!
DEFINITION. The operand forms: an index into a space, a round number, a control register number, each resolved or
BadAddress (spec/20_memory.md R60, R65; spec/30_encoding.md R92, R96; spec/60_exceptions.md R252).
-/

namespace Sys2Proof.Machine

/-- An operand read as an index below `n`: unsigned, no wrap-around (R61, R92). -/
def indexBelow (n : Nat) {w : Nat} (a : BitVec w) : Option (Fin n) :=
  if h : a.toNat < n then some ⟨a.toNat, h⟩ else none

/-- Range check of the operand `a` of the command with word `w` (R252, R258 line 4). -/
def withIndex (n : Nat) {k : Nat} (a : BitVec k) (w : Word) (s : State) (f : Fin n → Result) : Result :=
  match indexBelow n a with
  | some i => f i
  | none => raise .badAddress w s

/-- A byte read by a movement command: zero-extended to 32 bits (R98, R200). -/
def byteVal (b : Byte) : Word := b.setWidth 32

/-- The six control registers (R30). -/
inductive CtrlReg where
  | id | status | errcmd | ilen | olen | cap
  deriving DecidableEq, Repr

/-- The control register of a register number; numbers 6 to 255 do not exist (R30). -/
def ctrlReg (n : Byte) : Option CtrlReg :=
  match n.toNat with
  | 0 => some .id
  | 1 => some .status
  | 2 => some .errcmd
  | 3 => some .ilen
  | 4 => some .olen
  | 5 => some .cap
  | _ => none

/-- The content of a control register as read (R30, R31, R224). -/
def readCtrl (r : CtrlReg) (s : State) : Word :=
  match r with
  | .id => Config.idValue
  | .status => statusWord s
  | .errcmd => s.errcmd
  | .ilen => s.ilen.setWidth 32
  | .olen => s.olen.setWidth 32
  | .cap => s.cap.setWidth 32

end Sys2Proof.Machine
end

