-- ==== Sys2Proof/Machine/Field.lean ====
section
/-!
DEFINITION. The GF(2^8) multiplier and its command GFMUL (spec/40_gf_arithmetic.md R120 to R123).
-/

namespace Sys2Proof.Machine

/-- One iteration's update of a (R120, R121): shift left, and XOR 0x1B when bit 7 was 1. -/
def xtime (a : Byte) : Byte :=
  if a.getLsbD 7 then (a <<< 1) ^^^ 0x1B else a <<< 1

/-- `n` iterations of the loop of R120 from the accumulator `acc`. -/
def gfmulLoop : Nat → Byte → Byte → Byte → Byte
  | 0, acc, _, _ => acc
  | n + 1, acc, a, b => gfmulLoop n (if b.getLsbD 0 then acc ^^^ a else acc) (xtime a) (b >>> 1)

/-- The product of two bytes in GF(2^8) modulo 0x11B (R120). -/
def gfmul (a b : Byte) : Byte := gfmulLoop 8 0 a b

/-- GFMUL a, b (R123). -/
def execGfmul (a b : Byte) (s : State) : Result :=
  unlessLatched s <| complete (byteVal (gfmul a b)) s

end Sys2Proof.Machine
end

