-- ==== Sys2Proof/Machine/BlockTransform.lean ====
section
/-!
DEFINITION. The block transform steps and their commands SUBB, ISUBB, SHROW, ISHROW, MIXC, IMIXC, ARK
(spec/41_block_transform.md R130 to R146). A step is a function of the old block; every byte of the old block is read
before any is written (R130).
-/

namespace Sys2Proof.Machine

/-! ### Byte substitution -/

/-- SBOX (R131): the rows of the spec's table, the entry of column 0 the most significant byte. -/
def sboxRows : List (BitVec 128) := [
  0x637C777BF26B6FC53001672BFED7AB76,
  0xCA82C97DFA5947F0ADD4A2AF9CA472C0,
  0xB7FD9326363FF7CC34A5E5F171D83115,
  0x04C723C31896059A071280E2EB27B275,
  0x09832C1A1B6E5AA0523BD6B329E32F84,
  0x53D100ED20FCB15B6ACBBE394A4C58CF,
  0xD0EFAAFB434D338545F9027F503C9FA8,
  0x51A3408F929D38F5BCB6DA2110FFF3D2,
  0xCD0C13EC5F974417C4A77E3D645D1973,
  0x60814FDC222A908846EEB814DE5E0BDB,
  0xE0323A0A4906245CC2D3AC629195E479,
  0xE7C8376D8DD54EA96C56F4EA657AAE08,
  0xBA78252E1CA6B4C6E8DD741F4BBD8B8A,
  0x703EB5664803F60E613557B986C11D9E,
  0xE1F8981169D98E949B1E87E9CE5528DF,
  0x8CA1890DBFE6426841992D0FB054BB16]

/-- INVSBOX (R132), printed the same way. -/
def invSboxRows : List (BitVec 128) := [
  0x52096AD53036A538BF40A39E81F3D7FB,
  0x7CE339829B2FFF87348E4344C4DEE9CB,
  0x547B9432A6C2233DEE4C950B42FAC34E,
  0x082EA16628D924B2765BA2496D8BD125,
  0x72F8F66486689816D4A45CCC5D65B692,
  0x6C704850FDEDB9DA5E154657A78D9D84,
  0x90D8AB008CBCD30AF7E45805B8B34506,
  0xD02C1E8FCA3F0F02C1AFBD0301138A6B,
  0x3A9111414F67DCEA97F2CFCEF0B4E673,
  0x96AC7422E7AD3585E2F937E81C75DF6E,
  0x47F11A711D29C5896FB7620EAA18BE1B,
  0xFC563E4BC6D279209ADBC0FE78CD5AF4,
  0x1FDDA8338807C731B11210592780EC5F,
  0x60517FA919B54A0D2DE57A9F93C99CEF,
  0xA0E03B4DAE2AF5B0C8EBBB3C83539961,
  0x172B047EBA77D626E169146355210C7D]

/-- Entry `x` of a table of 16 rows: row = high hexadecimal digit, column = low digit (R131). -/
def tableByte (rows : List (BitVec 128)) (x : Byte) : Byte :=
  (rows.getD (x.toNat / 16) 0).extractLsb' (8 * (15 - x.toNat % 16)) 8

/-- `SBOX[x]` (R131). -/
def sbox (x : Byte) : Byte := tableByte sboxRows x

/-- `INVSBOX[x]` (R132). -/
def invSbox (x : Byte) : Byte := tableByte invSboxRows x

/-- `sub_bytes` (R133). -/
def subBytes (s : Block) : Block := tabulate fun n => sbox s[n]

/-- `inv_sub_bytes` (R133). -/
def invSubBytes (s : Block) : Block := tabulate fun n => invSbox s[n]

/-! ### Row shift -/

/-- Index r + 4*c of the matrix entry at row r, column c; both are taken modulo 4 (R10). -/
def matrixIndex (r c : Nat) : Fin 16 := ⟨r % 4 + 4 * (c % 4), by omega⟩

/-- `shift_rows`: row r rotated left by r columns (R136). -/
def shiftRows (s : Block) : Block :=
  tabulate fun n => s[matrixIndex (n.val % 4) (n.val / 4 + n.val % 4)]

/-- `inv_shift_rows`: row r rotated right by r columns (R138); `(c - r) mod 4` is written `(c + 4 - r) mod 4`. -/
def invShiftRows (s : Block) : Block :=
  tabulate fun n => s[matrixIndex (n.val % 4) (n.val / 4 + 4 - n.val % 4)]

/-! ### Column mix -/

/-- Entry (r, k) of the matrix MIX (R140). -/
def mixMatrix : List (List Byte) := [
  [2, 3, 1, 1],
  [1, 2, 3, 1],
  [1, 1, 2, 3],
  [3, 1, 1, 2]]

/-- The matrix IMIX (R142). -/
def invMixMatrix : List (List Byte) := [
  [0x0E, 0x0B, 0x0D, 0x09],
  [0x09, 0x0E, 0x0B, 0x0D],
  [0x0D, 0x09, 0x0E, 0x0B],
  [0x0B, 0x0D, 0x09, 0x0E]]

/-- Entry (r, k) of a matrix. -/
def matrixEntry (mx : List (List Byte)) (r k : Nat) : Byte := (mx.getD r []).getD k 0

/-- `mix_with(Mx, s)`: every column multiplied on the left by `mx` (R140). -/
def mixWith (mx : List (List Byte)) (s : Block) : Block :=
  tabulate fun n =>
    let r := n.val % 4
    let c := n.val / 4
    gfmul (matrixEntry mx r 0) s[matrixIndex 0 c] ^^^ gfmul (matrixEntry mx r 1) s[matrixIndex 1 c] ^^^
      gfmul (matrixEntry mx r 2) s[matrixIndex 2 c] ^^^ gfmul (matrixEntry mx r 3) s[matrixIndex 3 c]

/-- `mix_columns` (R140). -/
def mixColumns (s : Block) : Block := mixWith mixMatrix s

/-- `inv_mix_columns` (R142). -/
def invMixColumns (s : Block) : Block := mixWith invMixMatrix s

/-! ### Round-key combination -/

/-- Byte-wise XOR of two blocks (R8). -/
def xorBlock (s t : Block) : Block := tabulate fun n => s[n] ^^^ t[n]

/-- Round key `r` of a schedule: bytes 16*r to 16*r+15 of RK (R22). -/
def roundKey (rk : Bytes 240) (r : Fin 15) : Block :=
  tabulate fun n => rk[16 * r.val + n.val]

/-- `add_round_key(s, r)` (R144). -/
def addRoundKey (rk : Bytes 240) (r : Fin 15) (s : Block) : Block := xorBlock s (roundKey rk r)

/-! ### The commands -/

/-- A step command that needs no key (R130): BLK replaced by a function of the old BLK, response (0, 0). -/
def stepBlock (f : Block → Block) (s : State) : Result :=
  unlessLatched s <| complete 0 { s with blk := f s.blk }

/-- SUBB (R134). -/
def execSubb (s : State) : Result := stepBlock subBytes s

/-- ISUBB (R135). -/
def execIsubb (s : State) : Result := stepBlock invSubBytes s

/-- SHROW (R137). -/
def execShrow (s : State) : Result := stepBlock shiftRows s

/-- ISHROW (R139). -/
def execIshrow (s : State) : Result := stepBlock invShiftRows s

/-- MIXC (R141). -/
def execMixc (s : State) : Result := stepBlock mixColumns s

/-- IMIXC (R143). -/
def execImixc (s : State) : Result := stepBlock invMixColumns s

/-- ARK rnd (R145): the round number is checked before the key (R258). -/
def execArk (r : Byte) (s : State) : Result :=
  unlessLatched s <| withIndex 15 r (encode (.ark r)) s fun k =>
    requireKey (encode (.ark r)) s <| complete 0 { s with blk := addRoundKey s.rk k s.blk }

end Sys2Proof.Machine
end

