-- ==== Sys2Proof/Machine/KeySchedule.lean ====
section
/-!
DEFINITION. The AES-256 key-schedule expander and its command KEYEXP (spec/42_key_schedule.md R150 to R156).
-/

namespace Sys2Proof.Machine

/-- A word of the schedule: a sequence of 4 bytes, byte 0 first (R8, R150). -/
structure KeyWord where
  b0 : Byte
  b1 : Byte
  b2 : Byte
  b3 : Byte
  deriving DecidableEq, Repr

/-- Byte `j` of a word, `j` taken modulo 4. -/
def keyWordByte (t : KeyWord) (j : Nat) : Byte :=
  match j % 4 with
  | 0 => t.b0
  | 1 => t.b1
  | 2 => t.b2
  | _ => t.b3

/-- `t XOR u` (R150). -/
def xorWord (t u : KeyWord) : KeyWord := ⟨t.b0 ^^^ u.b0, t.b1 ^^^ u.b1, t.b2 ^^^ u.b2, t.b3 ^^^ u.b3⟩

/-- `rot_word`: rotate left by one byte (R150). -/
def rotWord (t : KeyWord) : KeyWord := ⟨t.b1, t.b2, t.b3, t.b0⟩

/-- `sub_word`: substitute each byte via the S-box (R150). -/
def subWord (t : KeyWord) : KeyWord := ⟨sbox t.b0, sbox t.b1, sbox t.b2, sbox t.b3⟩

/-- `rcon(k)` for k = 1 to 7 (R151); no other is used. -/
def rcon (k : Nat) : Byte := [0x00, 0x01, 0x02, 0x04, 0x08, 0x10, 0x20, 0x40].getD k 0

/-- The word of the schedule at index `i` of the words made so far. -/
def wordAt (ws : List KeyWord) (i : Nat) : KeyWord := ws.getD i ⟨0, 0, 0, 0⟩

/-- The transformed previous word of R152 at index `i`. -/
def transformWord (i : Nat) (t : KeyWord) : KeyWord :=
  if i % 8 = 0 then
    let u := subWord (rotWord t)
    { u with b0 := u.b0 ^^^ rcon (i / 8) }
  else if i % 8 = 4 then subWord t
  else t

/-- `w[i]` for i from 8 on, from the words before it (R152). -/
def nextWord (ws : List KeyWord) (i : Nat) : KeyWord :=
  xorWord (wordAt ws (i - 8)) (transformWord i (wordAt ws (i - 1)))

/-- The key as 8 words (R152). -/
def seedWords (key : Bytes 32) : List KeyWord :=
  (List.finRange 8).map fun i => ⟨key[4 * i.val], key[4 * i.val + 1], key[4 * i.val + 2], key[4 * i.val + 3]⟩

/-- The seed words and `n` words more (R152). -/
def scheduleWords (key : Bytes 32) : Nat → List KeyWord
  | 0 => seedWords key
  | n + 1 =>
    let ws := scheduleWords key n
    ws ++ [nextWord ws (8 + n)]

/-- `expand(key)`: the 60 words of the schedule (R152). -/
def expand (key : Bytes 32) : List KeyWord := scheduleWords key 52

/-- The words of a schedule as the 240 bytes of RK: byte j of word i at index 4*i + j (R22, R153). -/
def scheduleBytes (ws : List KeyWord) : Bytes 240 :=
  tabulate fun n => keyWordByte (wordAt ws (n.val / 4)) (n.val % 4)

/-- The schedule of a key as RK holds it. -/
def expandKey (key : Bytes 32) : Bytes 240 := scheduleBytes (expand key)

/-- KEYEXP (R154). -/
def execKeyexp (s : State) : Result :=
  unlessLatched s <| complete 0 { s with rk := expandKey s.key, kvalid := true }

end Sys2Proof.Machine
end

