-- ==== Sys2Proof/Machine/BlockCipher.lean ====
section
/-!
DEFINITION. The single-block cipher, 14 rounds, and its commands ENCBLK and DECBLK (spec/43_block_cipher.md R160 to R165).
-/

namespace Sys2Proof.Machine

/-- The rounds 1 to 13, in ascending order (R160). -/
def middleRounds : List (Fin 15) := [1, 2, 3, 4, 5, 6, 7, 8, 9, 10, 11, 12, 13]

/-- One of the rounds 1 to 13 of encryption (R160). -/
def encryptRound (rk : Bytes 240) (s : Block) (r : Fin 15) : Block :=
  addRoundKey rk r (mixColumns (shiftRows (subBytes s)))

/-- `encrypt_block` (R160). -/
def encryptBlock (rk : Bytes 240) (s : Block) : Block :=
  addRoundKey rk 14 (shiftRows (subBytes (middleRounds.foldl (encryptRound rk) (addRoundKey rk 0 s))))

/-- One of the rounds 13 to 1 of decryption (R161). -/
def decryptRound (rk : Bytes 240) (s : Block) (r : Fin 15) : Block :=
  invSubBytes (invShiftRows (invMixColumns (addRoundKey rk r s)))

/-- `decrypt_block`: the mirror sequence (R161). -/
def decryptBlock (rk : Bytes 240) (s : Block) : Block :=
  addRoundKey rk 0
    (middleRounds.reverse.foldl (decryptRound rk) (invSubBytes (invShiftRows (addRoundKey rk 14 s))))

/-- ENCBLK (R162). -/
def execEncblk (s : State) : Result :=
  unlessLatched s <| requireKey (encode .encblk) s <| complete 0 { s with blk := encryptBlock s.rk s.blk }

/-- DECBLK (R163). -/
def execDecblk (s : State) : Result :=
  unlessLatched s <| requireKey (encode .decblk) s <| complete 0 { s with blk := decryptBlock s.rk s.blk }

end Sys2Proof.Machine
end

