-- ==== Sys2Proof/Machine/Chaining.lean ====
section
/-!
DEFINITION. The chained-block mode engine and its commands CBCENC and CBCDEC (spec/45_chaining.md R180 to R188).
-/

namespace Sys2Proof.Machine

/-- The first `m` 16-byte chunks of a sequence, in order (R63, R180). -/
def chunks : Nat → List Byte → List Block
  | 0, _ => []
  | m + 1, d => bytesOfList 16 d :: chunks m (d.drop 16)

/-- The chunks of a sequence as bytes, in order. -/
def unchunks (bs : List Block) : List Byte := bs.flatMap fun b => b.toList

/-- The loop of R180 over chunks: the output chunks and the final chaining value. -/
def cbcEncryptChunks (rk : Bytes 240) : Block → List Block → List Block × Block
  | prev, [] => ([], prev)
  | prev, d :: ds =>
    let c := encryptBlock rk (xorBlock d prev)
    let (out, last) := cbcEncryptChunks rk c ds
    (c :: out, last)

/-- The loop of R182 over chunks. -/
def cbcDecryptChunks (rk : Bytes 240) : Block → List Block → List Block × Block
  | prev, [] => ([], prev)
  | prev, c :: cs =>
    let x := xorBlock (decryptBlock rk c) prev
    let (out, last) := cbcDecryptChunks rk c cs
    (x :: out, last)

/-- `cbc_encrypt(cv, d)` for a sequence of whole chunks (R180). -/
def cbcEncrypt (rk : Bytes 240) (cv : Block) (d : List Byte) : List Byte × Block :=
  let (out, last) := cbcEncryptChunks rk cv (chunks (d.length / 16) d)
  (unchunks out, last)

/-- `cbc_decrypt(cv, d)` for a sequence of whole chunks (R182). -/
def cbcDecrypt (rk : Bytes 240) (cv : Block) (d : List Byte) : List Byte × Block :=
  let (out, last) := cbcDecryptChunks rk cv (chunks (d.length / 16) d)
  (unchunks out, last)

/-- What CBCENC and CBCDEC share: the checks in the order of R258, then OBUF, OLEN and CV (R181, R183, R184). -/
def chainBuffer (f : Bytes 240 → Block → List Byte → List Byte × Block) (w : Word) (s : State) : Result :=
  unlessLatched s <| requireKey w s <|
    if s.ilen.toNat % 16 ≠ 0 then raise .lengthError w s
    else complete 0 { s.setOutput (f s.rk s.cv s.input).1 with cv := (f s.rk s.cv s.input).2 }

/-- CBCENC (R181). -/
def execCbcenc (s : State) : Result := chainBuffer cbcEncrypt (encode .cbcenc) s

/-- CBCDEC (R183). -/
def execCbcdec (s : State) : Result := chainBuffer cbcDecrypt (encode .cbcdec) s

end Sys2Proof.Machine
end

