-- ==== Sys2Proof/Machine/DataMovement.lean ====
section
/-!
DEFINITION. The data movement commands (spec/47_data_movement.md R200 to R212).
-/

namespace Sys2Proof.Machine

/-- A read command (R200): the byte the index selects, zero-extended; no state changes. -/
def readByte (n : Nat) (a : BitVec 16) (w : Word) (s : State) (f : Fin n → Byte) : Result :=
  unlessLatched s <| withIndex n a w s fun i => complete (byteVal (f i)) s

/-- WRKEY addr16, imm8 (R201): KVALID is cleared whatever the byte. -/
def execWrkey (a : BitVec 16) (b : Byte) (s : State) : Result :=
  unlessLatched s <| withIndex 32 a (encode (.wrkey a b)) s fun i =>
    complete 0 { s with key := s.key.set i b, kvalid := false }

/-- RDKEY addr16 (R202). -/
def execRdkey (a : BitVec 16) (s : State) : Result :=
  readByte 32 a (encode (.rdkey a)) s fun i => s.key[i]

/-- RDRK addr16 (R203): whatever KVALID is. -/
def execRdrk (a : BitVec 16) (s : State) : Result :=
  readByte 240 a (encode (.rdrk a)) s fun i => s.rk[i]

/-- WRBLK addr16, imm8 (R204). -/
def execWrblk (a : BitVec 16) (b : Byte) (s : State) : Result :=
  unlessLatched s <| withIndex 16 a (encode (.wrblk a b)) s fun i => complete 0 { s with blk := s.blk.set i b }

/-- RDBLK addr16 (R205). -/
def execRdblk (a : BitVec 16) (s : State) : Result :=
  readByte 16 a (encode (.rdblk a)) s fun i => s.blk[i]

/-- WRCV addr16, imm8 (R206). -/
def execWrcv (a : BitVec 16) (b : Byte) (s : State) : Result :=
  unlessLatched s <| withIndex 16 a (encode (.wrcv a b)) s fun i => complete 0 { s with cv := s.cv.set i b }

/-- RDCV addr16 (R207). -/
def execRdcv (a : BitVec 16) (s : State) : Result :=
  readByte 16 a (encode (.rdcv a)) s fun i => s.cv[i]

/-- PUSHI imm8 (R208). -/
def execPushi (b : Byte) (s : State) : Result :=
  unlessLatched s <|
    if s.ilen = s.cap then raise .overflow (encode (.pushi b)) s
    else complete 0 (s.appendInput [b])

/-- CLRI (R209). -/
def execClri (s : State) : Result :=
  unlessLatched s <| complete 0 s.clearInput

/-- RDI addr16 (R210). -/
def execRdi (a : BitVec 16) (s : State) : Result :=
  readByte s.ilen.toNat a (encode (.rdi a)) s fun i => s.ibuf.read i

/-- RDO addr16 (R211). -/
def execRdo (a : BitVec 16) (s : State) : Result :=
  readByte s.olen.toNat a (encode (.rdo a)) s fun i => s.obuf.read i

/-- APPO addr16 (R212): the offset may be OLEN itself, and then nothing is appended. -/
def execAppo (a : BitVec 16) (s : State) : Result :=
  unlessLatched s <| withIndex (s.olen.toNat + 1) a (encode (.appo a)) s fun off =>
    requireRoom (s.ilen.toNat + (s.olen.toNat - off)) (encode (.appo a)) s <|
      complete 0 (s.appendInput (s.output.drop off))

end Sys2Proof.Machine
end

