-- ==== Sys2Proof/Machine/Padding.lean ====
section
/-!
DEFINITION. The padding codec and its commands PAD and UNPAD (spec/44_padding_codec.md R170 to R175).
-/

namespace Sys2Proof.Machine

/-- The pad length for a sequence of `n` bytes, 1 to 16 (R170). -/
def padLength (n : Nat) : Nat := 16 - n % 16

/-- `pad(d)` (R170). -/
def pad (d : List Byte) : List Byte :=
  d ++ List.replicate (padLength d.length) (BitVec.ofNat 8 (padLength d.length))

/-- `unpad(d)`, `none` for the failure PaddingError (R172). -/
def unpad (d : List Byte) : Option (List Byte) :=
  match d.getLast? with
  | none => none
  | some p =>
    if p = 0 ∨ 16 < p.toNat ∨ d.length < p.toNat then none
    else if (d.drop (d.length - p.toNat)).all (· == p) then some (d.take (d.length - p.toNat))
    else none

/-- PAD (R171). -/
def execPad (s : State) : Result :=
  unlessLatched s <| requireRoom (s.ilen.toNat + padLength s.ilen.toNat) (encode .pad) s <|
    complete 0 (s.setOutput (pad s.input))

/-- UNPAD (R173). -/
def execUnpad (s : State) : Result :=
  unlessLatched s <|
    match unpad s.input with
    | none => raise .paddingError (encode .unpad) s
    | some r => complete 0 (s.setOutput r)

end Sys2Proof.Machine
end

