-- ==== Sys2Proof/Machine/System.lean ====
section
/-!
DEFINITION. The system commands (spec/48_system_commands.md R220 to R224). They are exempt: they execute while an error
is latched (R220, R257).
-/

namespace Sys2Proof.Machine

/-- NOP (R221). -/
def execNop (s : State) : Result := complete 0 s

/-- SRESET (R222): the response is produced after the state is cleared. -/
def execSreset (s : State) : Result := complete 0 s.resetCore

/-- CLRERR (R223), the return from the latched state (R261). -/
def execClrerr (s : State) : Result := complete 0 (returnFromError s)

/-- RDREG imm8 (R224). -/
def execRdreg (n : Byte) (s : State) : Result :=
  match ctrlReg n with
  | some r => complete (readCtrl r s) s
  | none => raise .badAddress (encode (.rdreg n)) s

end Sys2Proof.Machine
end

