-- ==== Sys2Proof/Machine/TextCodec.lean ====
section
/-!
DEFINITION. The binary-to-text codec with 64 symbols and its commands B64ENC and B64DEC (spec/46_text_codec.md R190 to
R197). The commands use the bit-sequence form of R192 and R194; the accumulator forms the rules call equivalent stand
beside them.
-/

namespace Sys2Proof.Machine

/-! ### The alphabet (R190, R191) -/

/-- The pad mark `=`, which is not in the alphabet. -/
def padMark : Byte := 0x3D

/-- `ALPHA[v]` for a symbol value 0 to 63 (R191). -/
def alpha (v : Nat) : Byte :=
  if v ≤ 25 then BitVec.ofNat 8 (v + 0x41)
  else if v ≤ 51 then BitVec.ofNat 8 (v + 0x47)
  else if v ≤ 61 then BitVec.ofNat 8 (v - 4)
  else if v = 62 then 0x2B
  else 0x2F

/-- `VALUE(ch)`, `none` for a byte that is not in the alphabet (R190, R191). -/
def symbolValue (ch : Byte) : Option Nat :=
  if 0x41 ≤ ch.toNat ∧ ch.toNat ≤ 0x5A then some (ch.toNat - 0x41)
  else if 0x61 ≤ ch.toNat ∧ ch.toNat ≤ 0x7A then some (ch.toNat - 0x47)
  else if 0x30 ≤ ch.toNat ∧ ch.toNat ≤ 0x39 then some (ch.toNat + 4)
  else if ch = 0x2B then some 62
  else if ch = 0x2F then some 63
  else none

/-! ### Bit sequences -/

/-- The `n` low bits of `v`, the most significant first. -/
def bitsOf : Nat → Nat → List Bool
  | 0, _ => []
  | n + 1, v => v.testBit n :: bitsOf n v

/-- The value of a bit sequence, the first bit most significant. -/
def valueOf (l : List Bool) : Nat := l.foldl (fun v b => 2 * v + b.toNat) 0

/-- The values of the first `g` groups of `k` bits. -/
def groupValues (k : Nat) : Nat → List Bool → List Nat
  | 0, _ => []
  | g + 1, l => valueOf (l.take k) :: groupValues k g (l.drop k)

/-! ### Encoding (R192) -/

/-- The number of pad marks that make a length a multiple of 4. -/
def markCount (n : Nat) : Nat := (4 - n % 4) % 4

/-- `encode(d)`: groups of 6 bits, zero fill, then `=` up to a multiple of 4 characters. -/
def textEncode (d : List Byte) : List Byte :=
  let bits := d.flatMap fun b => bitsOf 8 b.toNat
  let g := (bits.length + 5) / 6
  let out := (groupValues 6 g (bits ++ List.replicate (6 * g - bits.length) false)).map alpha
  out ++ List.replicate (markCount out.length) padMark

/-- The symbols the `while k >= 6` of R192 emits for an accumulator of `k` bits, and the bits it leaves. Two rounds are
enough: k is at most 5 + 8. -/
def emitSymbols (acc k : Nat) : List Byte × Nat :=
  if 12 ≤ k then ([alpha ((acc >>> (k - 6)) % 64), alpha ((acc >>> (k - 12)) % 64)], k - 12)
  else if 6 ≤ k then ([alpha ((acc >>> (k - 6)) % 64)], k - 6)
  else ([], k)

/-- The loop of the accumulator form of R192, with its last symbol. -/
def encodeLoop : Nat → Nat → List Byte → List Byte
  | acc, k, [] => if 0 < k then [alpha ((acc <<< (6 - k)) % 64)] else []
  | acc, k, b :: bs =>
    let acc' := (acc <<< 8) ||| b.toNat
    let (out, k') := emitSymbols acc' (k + 8)
    out ++ encodeLoop (acc' % 2 ^ k') k' bs

/-- The accumulator form of `encode(d)`, which R192 calls equivalent. -/
def textEncodeAcc (d : List Byte) : List Byte :=
  let out := encodeLoop 0 0 d
  out ++ List.replicate (markCount out.length) padMark

/-! ### Decoding (R194) -/

/-- The values of the leading alphabet characters: the scan stops at the first character not in the alphabet. -/
def leadingValues : List Byte → List Nat
  | [] => []
  | ch :: t =>
    match symbolValue ch with
    | some v => v :: leadingValues t
    | none => []

/-- `decode(t)`: the whole bytes of the bits of the leading alphabet characters. -/
def textDecode (t : List Byte) : List Byte :=
  let bits := (leadingValues t).flatMap fun v => bitsOf 6 v
  (groupValues 8 (bits.length / 8) bits).map (BitVec.ofNat 8)

/-- The loop of the accumulator form of R194. -/
def decodeLoop : Nat → Nat → List Byte → List Byte
  | _, _, [] => []
  | acc, k, ch :: t =>
    match symbolValue ch with
    | none => []
    | some v =>
      let acc' := (acc <<< 6) ||| v
      if 8 ≤ k + 6 then
        BitVec.ofNat 8 (acc' >>> (k + 6 - 8)) :: decodeLoop (acc' % 2 ^ (k + 6 - 8)) (k + 6 - 8) t
      else decodeLoop acc' (k + 6) t

/-- The accumulator form of `decode(t)`, which R194 calls equivalent. -/
def textDecodeAcc (t : List Byte) : List Byte := decodeLoop 0 0 t

/-! ### The commands -/

/-- The length of the text of `n` bytes, `4 * ((n + 2) div 3)` (R192, R193). -/
def textLength (n : Nat) : Nat := 4 * ((n + 2) / 3)

/-- B64ENC (R193). -/
def execB64enc (s : State) : Result :=
  unlessLatched s <| requireRoom (textLength s.ilen.toNat) (encode .b64enc) s <|
    complete 0 (s.setOutput (textEncode s.input))

/-- B64DEC (R195). -/
def execB64dec (s : State) : Result :=
  unlessLatched s <| complete 0 (s.setOutput (textDecode s.input))

end Sys2Proof.Machine
end

