-- ==== Sys2Proof/Machine/Dispatch.lean ====
section
/-! DEFINITION. exec: one arm per command (spec/30_encoding.md R93), each one call of its meaning. -/

namespace Sys2Proof.Machine

/-- What a command does, by its own rule (R93's column "semantics"). -/
def exec (i : Instr) (s : State) : Host.Outcome State Fault Refusal :=
  match i with
  | .nop => Sys2Proof.Machine.execNop s
  | .sreset => Sys2Proof.Machine.execSreset s
  | .clrerr => Sys2Proof.Machine.execClrerr s
  | .rdreg n => Sys2Proof.Machine.execRdreg n s
  | .wrkey a b => Sys2Proof.Machine.execWrkey a b s
  | .rdkey a => Sys2Proof.Machine.execRdkey a s
  | .rdrk a => Sys2Proof.Machine.execRdrk a s
  | .wrblk a b => Sys2Proof.Machine.execWrblk a b s
  | .rdblk a => Sys2Proof.Machine.execRdblk a s
  | .wrcv a b => Sys2Proof.Machine.execWrcv a b s
  | .rdcv a => Sys2Proof.Machine.execRdcv a s
  | .pushi b => Sys2Proof.Machine.execPushi b s
  | .clri => Sys2Proof.Machine.execClri s
  | .rdi a => Sys2Proof.Machine.execRdi a s
  | .rdo a => Sys2Proof.Machine.execRdo a s
  | .appo a => Sys2Proof.Machine.execAppo a s
  | .gfmul a b => Sys2Proof.Machine.execGfmul a b s
  | .subb => Sys2Proof.Machine.execSubb s
  | .isubb => Sys2Proof.Machine.execIsubb s
  | .shrow => Sys2Proof.Machine.execShrow s
  | .ishrow => Sys2Proof.Machine.execIshrow s
  | .mixc => Sys2Proof.Machine.execMixc s
  | .imixc => Sys2Proof.Machine.execImixc s
  | .ark r => Sys2Proof.Machine.execArk r s
  | .keyexp => Sys2Proof.Machine.execKeyexp s
  | .encblk => Sys2Proof.Machine.execEncblk s
  | .decblk => Sys2Proof.Machine.execDecblk s
  | .pad => Sys2Proof.Machine.execPad s
  | .unpad => Sys2Proof.Machine.execUnpad s
  | .cbcenc => Sys2Proof.Machine.execCbcenc s
  | .cbcdec => Sys2Proof.Machine.execCbcdec s
  | .b64enc => Sys2Proof.Machine.execB64enc s
  | .b64dec => Sys2Proof.Machine.execB64dec s

end Sys2Proof.Machine
end

