-- ==== Sys2Proof/Machine/Step.lean ====
section
/-!
DEFINITION. One step: the next event of the port (spec/30_encoding.md R90, R101; spec/20_memory.md R70;
spec/70_reset_and_hazards.md R280). The core fetches nothing (spec/10_state.md R32): the host issues the words.
-/

namespace Sys2Proof.Machine

/-- One step. A command word is decoded and executed, or rejected; the hardware reset happens between two commands; with
no event the core waits. -/
def step (s : State) : Host.Outcome State Fault Refusal :=
  match s.nextEvent with
  | none => idle s
  | some .reset => hardwareReset s
  | some (.command w) =>
    match decode w with
    | .ok i => exec i s
    | .error _ => rejectWord w s

/-- `s` with the host issuing the command word `w` next (log 2): the word stands at the head of the port, where the step
takes its next command. Bits from `nbits` on are 0. -/
def State.withFetchWord (s : State) (nbits w : Nat) : State :=
  { s with port := .command (BitVec.ofNat 32 (w % 2 ^ nbits)) :: s.port }

end Sys2Proof.Machine
end

