-- ==== Sys2Proof/Safety.lean ====
section
/-!
DEFINITION. What statements about CVAES speak of: the invariant of every state of the hardware (spec/10_state.md R37 and
R31, and the canonical form of the two buffer memories), what a command may not touch, and a run that goes on.
-/

namespace Sys2Proof.Machine

/-- The invariants of R37, the exclusion of R31, the bound of R5, and the form of the buffer memories: canonical, and with
no byte listed at or beyond the length (R25, R26; log 6, log 7). -/
structure Inv (s : State) : Prop where
  cap_ge : Config.bufcapMin ≤ s.cap.toNat
  ilen_le : s.ilen.toNat ≤ s.cap.toNat
  olen_le : s.olen.toNat ≤ s.cap.toNat
  err_le : s.err.toNat ≤ 6
  err_errcmd : s.err = 0 ↔ s.errcmd = 0
  kvalid_rk : s.kvalid = true → s.rk = expandKey s.key
  kvalid_err : s.kvalid = true → s.err ≠ ErrorCode.noKeySchedule.code
  ibuf_wf : s.ibuf.wf = true
  ibuf_below : s.ibuf.below s.ilen.toNat = true
  obuf_wf : s.obuf.wf = true
  obuf_below : s.obuf.below s.olen.toNat = true

/-- The machine did not stop. -/
def goesOn : Result → Prop
  | .next _ => True
  | .fault _ => False
  | .refused _ => False

/-- The cipher data and the buffers are those of `s`: everything R260 says an error leaves alone. -/
structure SameData (s t : State) : Prop where
  key : t.key = s.key
  rk : t.rk = s.rk
  kvalid : t.kvalid = s.kvalid
  blk : t.blk = s.blk
  cv : t.cv = s.cv
  ibuf : t.ibuf = s.ibuf
  ilen : t.ilen = s.ilen
  obuf : t.obuf = s.obuf
  olen : t.olen = s.olen

/-- The operand of a command is outside the range R96 gives it: the causes of BadAddress (R252). -/
def operandOutOfRange (i : Instr) (s : State) : Prop :=
  match i with
  | .rdreg n => 5 < n.toNat
  | .wrkey a _ => 31 < a.toNat
  | .rdkey a => 31 < a.toNat
  | .rdrk a => 239 < a.toNat
  | .wrblk a _ => 15 < a.toNat
  | .rdblk a => 15 < a.toNat
  | .wrcv a _ => 15 < a.toNat
  | .rdcv a => 15 < a.toNat
  | .rdi a => s.ilen.toNat ≤ a.toNat
  | .rdo a => s.olen.toNat ≤ a.toNat
  | .appo a => s.olen.toNat < a.toNat
  | .ark r => 14 < r.toNat
  | .nop | .sreset | .clrerr | .pushi _ | .clri | .gfmul _ _ | .subb | .isubb | .shrow | .ishrow | .mixc | .imixc
  | .keyexp | .encblk | .decblk | .pad | .unpad | .cbcenc | .cbcdec | .b64enc | .b64dec => False

/-- The result of a command would exceed BUFCAP bytes: the causes of Overflow (R256), the offset of APPO being in range. -/
def resultTooLong (i : Instr) (s : State) : Prop :=
  match i with
  | .pushi _ => s.ilen = s.cap
  | .appo a => a.toNat ≤ s.olen.toNat ∧ s.cap.toNat < s.ilen.toNat + (s.olen.toNat - a.toNat)
  | .pad => s.cap.toNat < s.ilen.toNat + 16 - s.ilen.toNat % 16
  | .b64enc => s.cap.toNat < 4 * ((s.ilen.toNat + 2) / 3)
  | .nop | .sreset | .clrerr | .rdreg _ | .wrkey _ _ | .rdkey _ | .rdrk _ | .wrblk _ _ | .rdblk _ | .wrcv _ _ | .rdcv _
  | .clri | .rdi _ | .rdo _ | .gfmul _ _ | .subb | .isubb | .shrow | .ishrow | .mixc | .imixc | .ark _ | .keyexp
  | .encblk | .decblk | .unpad | .cbcenc | .cbcdec | .b64dec => False

/-- A word with the opcode of `pattern` that differs from it in a bit of `mask` is no command: of the bits of an assigned
opcode, those the format marks must-be-zero are refused when 1 (R93, R94). -/
def otherWordsRefused (pattern mask : Word) : Prop :=
  ∀ w : Word, opcodeField w = opcodeField pattern → w &&& mask ≠ pattern → ∃ e, decode w = .error e

/-- Chunk `k` of a byte sequence: bytes 16*k to 16*k+15 (R63). -/
def chunkAt (l : List Byte) (k : Nat) : Block := bytesOfList 16 (l.drop (16 * k))

/-- The product of two numbers as polynomials over GF(2), bit i the coefficient of x^i (R120). -/
def polyMul (a b : Nat) : Nat :=
  (List.range 8).foldl (fun acc i => if b.testBit i then acc ^^^ (a <<< i) else acc) 0

/-- A polynomial of degree at most 14 reduced modulo x^8 + x^4 + x^3 + x + 1 = 0x11B (R120): the multiples of 0x11B by
x^6 down to x^0 are taken away where they are contained. -/
def polyMod (x : Nat) : Nat :=
  [6, 5, 4, 3, 2, 1, 0].foldl (fun y k => if y.testBit (k + 8) then y ^^^ (0x11B <<< k) else y) x

/-- Bit `p` of a byte sequence, bit 7 of byte 0 first; 0 beyond its end (R192). -/
def bitOfBytes (d : List Byte) (p : Nat) : Bool := (d.getD (p / 8) 0).getLsbD (7 - p % 8)

/-- Bit `p` of the symbol values of a character sequence, the most significant bit of each value first (R194). -/
def bitOfSymbols (t : List Byte) (p : Nat) : Bool := ((symbolValue (t.getD (p / 6) 0)).getD 0).testBit (5 - p % 6)

/-- The number whose `k` bits are `f 0` to `f (k - 1)`, the first most significant. -/
def numberOfBits (k : Nat) (f : Nat → Bool) : Nat := (List.range k).foldl (fun v i => 2 * v + (f i).toNat) 0

end Sys2Proof.Machine
end

