-- ==== Sys2Proof/Certificates/Slice0/Obligations.lean ====
section
/-!
DEFINITION. The statements for the provers. `Obligations.<Name>` says what its name says; OBLIGATIONS.json gives the rule
each formalises. In every statement `State.respond cc val` is the end of a command (spec/30_encoding.md R98): the command
at the head of the port is taken away and the response (cc, val) returned. A record `{ s with … }` is the frame: every
field not named is unchanged.
-/

open Sys2Proof Sys2Proof.Machine

/-! ## Encoding and decoding -/

/-- Decoding the word of a command gives the command back, every operand at every value (30_encoding.md, sections 1, 2). -/
def Obligations.DecodeOfEncode : Prop :=
  ∀ i : Instr, decode (encode i) = .ok i

/-- A word has one meaning: the command decoded from it encodes to that very word (30_encoding.md, sections 1 to 3). -/
def Obligations.EncodeOfDecode : Prop :=
  ∀ (w : Word) (i : Instr), decode w = .ok i → encode i = w

/-- R93: a word is the command of a row exactly when `w AND mask = match`; there are 33 rows. -/
def Obligations.DecodeFollowsOpcodeTable : Prop :=
  opcodeTable.length = 33 ∧
  ∀ r ∈ opcodeTable, ∀ w : Word,
    w &&& r.mask = r.pattern ↔ ∃ i, decode w = .ok i ∧ i.mnemonic = r.mnemonic

/-- R251: a word that is no command of R93 raises IllegalCommand before any other check, in every state in which it is not
dropped; the reserved opcodes of R95 match no row whatever the low 24 bits are. -/
def Obligations.UndecodableWordsAreIllegal : Prop :=
  (∀ (s : State) (w : Word) (rest : List HostEvent), s.port = .command w :: rest →
    (∀ r ∈ opcodeTable, w &&& r.mask ≠ r.pattern) →
    (s.err = 0 → step s = .next (State.respond 0x01 0 { s with err := 1, errcmd := w })) ∧
    (s.err ≠ 0 → w.toNat / 2 ^ 24 < 4 → step s = .next (s.respond 0x01 0))) ∧
  ∀ w : Word, ∀ op : Nat, op = w.toNat / 2 ^ 24 →
    (4 ≤ op ∧ op ≤ 0x0F ∨ op = 0x13 ∨ 0x1D ≤ op ∧ op ≤ 0x1F ∨ 0x2B ≤ op ∧ op ≤ 0x2F ∨ 0x36 ≤ op) →
    ∀ r ∈ opcodeTable, w &&& r.mask ≠ r.pattern

/-- The example words of R99 decode to the commands they stand for. -/
def Obligations.SampleWordsDecode : Prop :=
  decode 0x1000057F = .ok (.wrkey 5 0x7F) ∧ decode 0x1B002B00 = .ok (.rdo 43) ∧ decode 0x2700000E = .ok (.ark 14) ∧
  decode 0x20005783 = .ok (.gfmul 0x57 0x83) ∧ decode 0x28000000 = .ok .keyexp ∧ decode 0x00000000 = .ok .nop

/-! ## The step -/

/-- When the word at the head of the port decodes to a command, the step is exec of that command at that very state; the
command is then taken off the port and one response is returned. -/
def Obligations.StepRunsDecodedCommand : Prop :=
  ∀ (s : State) (w : Word) (rest : List HostEvent) (i : Instr), s.port = .command w :: rest → decode w = .ok i →
    step s = exec i s ∧ ∃ t r, exec i s = .next t ∧ t.port = rest ∧ t.resps = s.resps ++ [r]

/-- Every one of the 2^32 words ends with exactly one response in every state; the completion code is one of R250's, val
is 0 with every code that is not 0 and for every command that returns no value; Dropped needs a latched error. -/
def Obligations.EveryCommandEndsWithOneResponse : Prop :=
  ∀ (s : State) (w : Word) (rest : List HostEvent), s.port = .command w :: rest →
    ∃ t r, step s = .next t ∧ t.port = rest ∧ t.resps = s.resps ++ [r] ∧
      r.cc ∈ [0x00, 0x01, 0x02, 0x03, 0x04, 0x05, 0x06, 0x0F] ∧ (r.cc ≠ 0 → r.val = 0) ∧
      (r.cc = 0x0F → s.err ≠ 0) ∧
      ∀ i, decode w = .ok i →
        i.mnemonic ∉ ["RDREG", "RDKEY", "RDRK", "RDBLK", "RDCV", "RDI", "RDO", "GFMUL"] → r.val = 0

/-- R101: dropped first, then illegal, then the command. -/
def Obligations.StepFollowsDecodeOrder : Prop :=
  ∀ (s : State) (w : Word) (rest : List HostEvent), s.port = .command w :: rest →
    step s = match decodeCommand s.err w with
      | .dropped => .next (s.respond 0x0F 0)
      | .illegal => raise .illegalCommand w s
      | .command i => exec i s

/-- The hardware reset sets every piece of architectural state to its value of R36 and returns no response; with no event
the core holds its state (log 4, log 5). -/
def Obligations.StepIdleAndHardwareReset : Prop :=
  (∀ s : State, s.port = [] → step s = .next s) ∧
  ∀ (s : State) (rest : List HostEvent), s.port = .reset :: rest →
    ∃ t, step s = .next t ∧ (∀ i : Fin 32, t.key[i] = 0) ∧ (∀ i : Fin 240, t.rk[i] = 0) ∧ (∀ i : Fin 16, t.blk[i] = 0) ∧
      (∀ i : Fin 16, t.cv[i] = 0) ∧ t.input = [] ∧ t.ilen = 0 ∧ t.output = [] ∧ t.olen = 0 ∧ t.kvalid = false ∧
      t.err = 0 ∧ t.errcmd = 0 ∧ t.cap = s.cap ∧ t.port = rest ∧ t.resps = s.resps

/-! ## Errors -/

/-- R257: while an error is latched every word with an opcode of 0x04 or above is dropped, reserved opcodes too, and no
state changes; a word with an opcode below 0x04 is executed as usual and not dropped. -/
def Obligations.LatchedCommandsAreDropped : Prop :=
  ∀ (s : State) (w : Word) (rest : List HostEvent), s.port = .command w :: rest → s.err ≠ 0 →
    (4 ≤ w.toNat / 2 ^ 24 → step s = .next (s.respond 0x0F 0)) ∧
    (w.toNat / 2 ^ 24 < 4 → (∀ i, decode w = .ok i → step s = exec i s) ∧
      ∃ t r, step s = .next t ∧ t.resps = s.resps ++ [r] ∧ r.cc ≠ 0x0F)

/-- R259, R260: a command that raises changes nothing but the latch. With the latch empty ERR takes the code and ERRCMD the
command word; with an error latched both stay. -/
def Obligations.ErrorEntryIsPrecise : Prop :=
  ∀ (s : State) (w : Word) (rest : List HostEvent), s.port = .command w :: rest →
    ∃ t r, step s = .next t ∧ t.port = rest ∧ t.resps = s.resps ++ [r] ∧
      (1 ≤ r.cc.toNat → r.cc.toNat ≤ 6 →
        r.val = 0 ∧ SameData s t ∧ t.cap = s.cap ∧
        (s.err = 0 → t.err.toNat = r.cc.toNat ∧ t.errcmd = w) ∧
        (s.err ≠ 0 → t.err = s.err ∧ t.errcmd = s.errcmd))

/-- R262: while an error is latched only an exempt command can raise, by a must-be-zero bit or an RDREG number above 5,
and then nothing changes but the response. -/
def Obligations.FirstErrorSticks : Prop :=
  ∀ (s : State) (w : Word) (rest : List HostEvent), s.port = .command w :: rest → s.err ≠ 0 →
    ∃ t r, step s = .next t ∧ t.resps = s.resps ++ [r] ∧
      (1 ≤ r.cc.toNat → r.cc.toNat ≤ 6 →
        w.toNat / 2 ^ 24 < 4 ∧ t = s.respond r.cc 0 ∧
        (r.cc = 0x01 ∧ (∃ e, decode w = .error e) ∨ r.cc = 0x02 ∧ ∃ n, 5 < n.toNat ∧ decode w = .ok (.rdreg n)))

/-- R28: a latched error is left only by CLRERR, SRESET or the hardware reset, each of which sets ERR and ERRCMD to 0; with
no error latched ERR becomes non-zero only by a command that raises, to the code it responds with. -/
def Obligations.ErrorLatchChangesOnlyBy : Prop :=
  ∀ s t : State, step s = .next t →
    (s.err ≠ 0 → (∀ rest, s.port ≠ .reset :: rest ∧ s.port ≠ .command 0x01000000 :: rest ∧
        s.port ≠ .command 0x02000000 :: rest) → t.err = s.err ∧ t.errcmd = s.errcmd) ∧
    (∀ rest, s.port = .reset :: rest ∨ s.port = .command 0x01000000 :: rest ∨ s.port = .command 0x02000000 :: rest →
      t.err = 0 ∧ t.errcmd = 0) ∧
    (s.err = 0 → t.err ≠ 0 → ∃ w rest, s.port = .command w :: rest ∧ t.errcmd = w ∧
      t.resps = s.resps ++ [⟨t.err.setWidth 8, 0⟩] ∧ 1 ≤ t.err.toNat ∧ t.err.toNat ≤ 6)

/-- R27: KVALID is set by a KEYEXP that executes, cleared by a WRKEY that executes, by SRESET and by the hardware reset,
and changed by nothing else; WRKEY leaves RK alone. -/
def Obligations.KvalidChangesOnlyBy : Prop :=
  (∀ (s : State) (w : Word) (rest : List HostEvent), s.port = .command w :: rest →
    ∃ t, step s = .next t ∧
      (w = 0x28000000 ∧ s.err = 0 → t.kvalid = true) ∧
      (w.toNat / 2 ^ 24 = 0x10 ∧ w.toNat / 2 ^ 8 % 2 ^ 16 ≤ 31 ∧ s.err = 0 → t.kvalid = false ∧ t.rk = s.rk) ∧
      (w = 0x01000000 → t.kvalid = false) ∧
      (¬(w = 0x28000000 ∧ s.err = 0) → ¬(w.toNat / 2 ^ 24 = 0x10 ∧ w.toNat / 2 ^ 8 % 2 ^ 16 ≤ 31 ∧ s.err = 0) →
        w ≠ 0x01000000 → t.kvalid = s.kvalid)) ∧
  ∀ (s : State) (rest : List HostEvent), s.port = .reset :: rest → ∃ t, step s = .next t ∧ t.kvalid = false

/-- R252: BadAddress is raised exactly by an operand outside its range. -/
def Obligations.BadAddressCauses : Prop :=
  ∀ (i : Instr) (s : State), (s.err = 0 ∨ i.opcode.toNat < 4) →
    ((∃ t, exec i s = .next t ∧ t.resps = s.resps ++ [⟨0x02, 0⟩]) ↔ operandOutOfRange i s)

/-- R253: with no error latched NoKeySchedule is raised exactly by the five cipher commands while KVALID is 0 (ARK with a
round number in range). -/
def Obligations.NoKeyScheduleCauses : Prop :=
  ∀ (i : Instr) (s : State), s.err = 0 →
    ((∃ t, exec i s = .next t ∧ t.resps = s.resps ++ [⟨0x03, 0⟩]) ↔
      s.kvalid = false ∧ (i = .encblk ∨ i = .decblk ∨ i = .cbcenc ∨ i = .cbcdec ∨ ∃ r, r.toNat ≤ 14 ∧ i = .ark r))

/-- R254, R255, R256: with no error latched LengthError is raised exactly by CBCENC and CBCDEC with a valid key schedule and
ILEN no multiple of 16, PaddingError exactly by UNPAD where unpad fails, Overflow exactly by a result longer than BUFCAP. -/
def Obligations.LengthPaddingOverflowCauses : Prop :=
  ∀ (i : Instr) (s : State), s.err = 0 →
    ((∃ t, exec i s = .next t ∧ t.resps = s.resps ++ [⟨0x04, 0⟩]) ↔
      s.kvalid = true ∧ (i = .cbcenc ∨ i = .cbcdec) ∧ s.ilen.toNat % 16 ≠ 0) ∧
    ((∃ t, exec i s = .next t ∧ t.resps = s.resps ++ [⟨0x05, 0⟩]) ↔ i = .unpad ∧ unpad s.input = none) ∧
    ((∃ t, exec i s = .next t ∧ t.resps = s.resps ++ [⟨0x06, 0⟩]) ↔ resultTooLong i s)

/-! ## Invariants and frames -/

/-- Every step keeps the invariant of every state of the hardware (10_state.md, section 7; log 6, log 7). -/
def Obligations.StepKeepsInvariant : Prop :=
  ∀ s t : State, Inv s → step s = .next t → Inv t

/-- The state after reset has the invariant, for every capacity the parameter may take. -/
def Obligations.ResetHasInvariant : Prop :=
  Inv State.reset ∧ ∀ cap : BitVec 16, 64 ≤ cap.toNat → Inv (State.resetWith cap)

/-- Which command may write which state: everything else stays (10_state.md, section 7). CAP is never written. -/
def Obligations.CommandsWriteOnlyTheirState : Prop :=
  ∀ (i : Instr) (s : State), ∃ t, exec i s = .next t ∧ t.cap = s.cap ∧
    (t.key ≠ s.key → i.mnemonic ∈ ["WRKEY", "SRESET"]) ∧
    (t.rk ≠ s.rk → i.mnemonic ∈ ["KEYEXP", "SRESET"]) ∧
    (t.blk ≠ s.blk → i.mnemonic ∈
      ["WRBLK", "SUBB", "ISUBB", "SHROW", "ISHROW", "MIXC", "IMIXC", "ARK", "ENCBLK", "DECBLK", "SRESET"]) ∧
    (t.cv ≠ s.cv → i.mnemonic ∈ ["WRCV", "CBCENC", "CBCDEC", "SRESET"]) ∧
    (t.ibuf ≠ s.ibuf ∨ t.ilen ≠ s.ilen → i.mnemonic ∈ ["PUSHI", "CLRI", "APPO", "SRESET"]) ∧
    (t.obuf ≠ s.obuf ∨ t.olen ≠ s.olen →
      i.mnemonic ∈ ["PAD", "UNPAD", "CBCENC", "CBCDEC", "B64ENC", "B64DEC", "SRESET"])

/-! ## System commands -/

/-- R221: NOP changes no state in any state; it is the only command whose word is 0. -/
def Obligations.NopChangesNothing : Prop :=
  otherWordsRefused 0x00000000 0xFFFFFFFF ∧ (∀ s : State, exec .nop s = .next (s.respond 0 0)) ∧ ∀ i : Instr, encode i = 0x00000000 ↔ i = .nop

/-- R222: SRESET sets every piece of state to its reset value, whether or not an error is latched, and then responds. -/
def Obligations.SresetClearsEverything : Prop :=
  encode .sreset = 0x01000000 ∧ otherWordsRefused 0x01000000 0xFFFFFFFF ∧
  ∀ s : State, ∃ t, exec .sreset s = .next t ∧
    (∀ i : Fin 32, t.key[i] = 0) ∧ (∀ i : Fin 240, t.rk[i] = 0) ∧ (∀ i : Fin 16, t.blk[i] = 0) ∧
    (∀ i : Fin 16, t.cv[i] = 0) ∧ t.input = [] ∧ t.ilen = 0 ∧ t.output = [] ∧ t.olen = 0 ∧ t.kvalid = false ∧
    t.err = 0 ∧ t.errcmd = 0 ∧ t.cap = s.cap ∧ t.port = s.port.tail ∧ t.resps = s.resps ++ [⟨0, 0⟩] ∧
    ∀ u, hardwareReset s = .next u → { t with resps := s.resps } = u

/-- R223: CLRERR clears ERR and ERRCMD and changes nothing else, whether or not an error is latched. -/
def Obligations.ClrerrClearsOnlyTheLatch : Prop :=
  encode .clrerr = 0x02000000 ∧ otherWordsRefused 0x02000000 0xFFFFFFFF ∧
  ∀ s : State, exec .clrerr s = .next (State.respond 0 0 { s with err := 0, errcmd := 0 })

/-- R224: RDREG reads the six control registers in every state and raises BadAddress for every other number. -/
def Obligations.RdregReadsControlRegisters : Prop :=
  otherWordsRefused 0x03000000 0xFFFFFF00 ∧ ∀ (n : Byte) (s : State),
    encode (.rdreg n) = 0x03000000 ||| n.setWidth 32 ∧
    (n = 0 → exec (.rdreg n) s = .next (s.respond 0 0x43564145)) ∧
    (n = 1 → ∃ v : Word, exec (.rdreg n) s = .next (s.respond 0 v) ∧
      v.toNat = (if s.kvalid then 256 else 0) + s.err.toNat) ∧
    (n = 2 → exec (.rdreg n) s = .next (s.respond 0 s.errcmd)) ∧
    (n = 3 → exec (.rdreg n) s = .next (s.respond 0 (BitVec.ofNat 32 s.ilen.toNat))) ∧
    (n = 4 → exec (.rdreg n) s = .next (s.respond 0 (BitVec.ofNat 32 s.olen.toNat))) ∧
    (n = 5 → exec (.rdreg n) s = .next (s.respond 0 (BitVec.ofNat 32 s.cap.toNat))) ∧
    (5 < n.toNat → s.err = 0 →
      exec (.rdreg n) s = .next (State.respond 2 0 { s with err := 2, errcmd := 0x03000000 ||| n.setWidth 32 })) ∧
    (5 < n.toNat → s.err ≠ 0 → exec (.rdreg n) s = .next (s.respond 2 0))

/-! ## Data movement -/

/-- R201: WRKEY writes one byte of KEY and clears KVALID; nothing else changes. -/
def Obligations.WrkeyWritesKeyByte : Prop :=
  ∀ (a : BitVec 16) (b : Byte) (s : State) (w : Word), w = 0x10000000 ||| (a.setWidth 32 <<< 8) ||| b.setWidth 32 →
    decode w = .ok (.wrkey a b) ∧
    (s.err ≠ 0 → exec (.wrkey a b) s = .next (s.respond 0x0F 0)) ∧
    (s.err = 0 → 32 ≤ a.toNat → exec (.wrkey a b) s = .next (State.respond 2 0 { s with err := 2, errcmd := w })) ∧
    (s.err = 0 → ∀ h : a.toNat < 32,
      exec (.wrkey a b) s = .next (State.respond 0 0 { s with key := s.key.set a.toNat b, kvalid := false }))

/-- R202, R203, R205, R207: the four commands that read a byte of a register return it zero-extended, whatever KVALID is,
and change nothing. -/
def Obligations.ReadCommandsReturnRegisterBytes : Prop :=
  (∀ w ∈ [(0x11000000 : Word), 0x12000000, 0x15000000, 0x17000000], otherWordsRefused w 0xFF0000FF) ∧ ∀ (a : BitVec 16) (s : State),
    (s.err ≠ 0 → ∀ i ∈ [Instr.rdkey a, .rdrk a, .rdblk a, .rdcv a], exec i s = .next (s.respond 0x0F 0)) ∧
    (s.err = 0 → ∀ p ∈ [(Instr.rdkey a, (0x11000000 : Word), 32), (.rdrk a, 0x12000000, 240), (.rdblk a, 0x15000000, 16),
        (.rdcv a, 0x17000000, 16)],
      decode (p.2.1 ||| (a.setWidth 32 <<< 8)) = .ok p.1 ∧
      (p.2.2 ≤ a.toNat → exec p.1 s =
        .next (State.respond 2 0 { s with err := 2, errcmd := p.2.1 ||| (a.setWidth 32 <<< 8) }))) ∧
    (s.err = 0 → ∀ h : a.toNat < 32, exec (.rdkey a) s = .next (s.respond 0 (BitVec.ofNat 32 s.key[a.toNat].toNat))) ∧
    (s.err = 0 → ∀ h : a.toNat < 240, exec (.rdrk a) s = .next (s.respond 0 (BitVec.ofNat 32 s.rk[a.toNat].toNat))) ∧
    (s.err = 0 → ∀ h : a.toNat < 16, exec (.rdblk a) s = .next (s.respond 0 (BitVec.ofNat 32 s.blk[a.toNat].toNat))) ∧
    (s.err = 0 → ∀ h : a.toNat < 16, exec (.rdcv a) s = .next (s.respond 0 (BitVec.ofNat 32 s.cv[a.toNat].toNat)))

/-- R204, R206: WRBLK and WRCV write one byte of their register; nothing else changes. -/
def Obligations.WrblkAndWrcvWriteOneByte : Prop :=
  ∀ (a : BitVec 16) (b : Byte) (s : State) (x : Word), x = (a.setWidth 32 <<< 8) ||| b.setWidth 32 →
    decode (0x14000000 ||| x) = .ok (.wrblk a b) ∧ decode (0x16000000 ||| x) = .ok (.wrcv a b) ∧
    (s.err ≠ 0 → exec (.wrblk a b) s = .next (s.respond 0x0F 0) ∧ exec (.wrcv a b) s = .next (s.respond 0x0F 0)) ∧
    (s.err = 0 → 16 ≤ a.toNat →
      exec (.wrblk a b) s = .next (State.respond 2 0 { s with err := 2, errcmd := 0x14000000 ||| x }) ∧
      exec (.wrcv a b) s = .next (State.respond 2 0 { s with err := 2, errcmd := 0x16000000 ||| x })) ∧
    (s.err = 0 → ∀ h : a.toNat < 16,
      exec (.wrblk a b) s = .next (State.respond 0 0 { s with blk := s.blk.set a.toNat b }) ∧
      exec (.wrcv a b) s = .next (State.respond 0 0 { s with cv := s.cv.set a.toNat b }))

/-- R208: PUSHI appends one byte at ILEN, or raises Overflow when IBUF is full; every other byte of IBUF, all of OBUF and
everything else is unchanged. -/
def Obligations.PushiAppendsOneByte : Prop :=
  otherWordsRefused 0x18000000 0xFFFFFF00 ∧ ∀ (b : Byte) (s : State) (w : Word), w = 0x18000000 ||| b.setWidth 32 →
    decode w = .ok (.pushi b) ∧
    (s.err ≠ 0 → exec (.pushi b) s = .next (s.respond 0x0F 0)) ∧
    (s.err = 0 → s.ilen = s.cap → exec (.pushi b) s = .next (State.respond 6 0 { s with err := 6, errcmd := w })) ∧
    (s.err = 0 → s.ilen ≠ s.cap → ∃ m, exec (.pushi b) s = .next (State.respond 0 0 { s with ibuf := m, ilen := s.ilen + 1 }) ∧
      (∀ x, x ≠ s.ilen.toNat → m.read x = s.ibuf.read x) ∧
      (s.ibuf.wf = true → m.read s.ilen.toNat = b ∧
        (s.ilen.toNat < s.cap.toNat → m.toList (s.ilen + 1).toNat = s.input ++ [b])))

/-- R209: CLRI sets ILEN to 0, so that no byte of IBUF is valid; OBUF and everything else are unchanged. The cells of IBUF
are dropped (the model's choice, log 7). -/
def Obligations.ClriEmptiesInput : Prop :=
  decode 0x19000000 = .ok .clri ∧ otherWordsRefused 0x19000000 0xFFFFFFFF ∧
  ∀ s : State,
    (s.err ≠ 0 → exec .clri s = .next (s.respond 0x0F 0)) ∧
    (s.err = 0 → ∃ t, exec .clri s = .next t ∧ t.ilen = 0 ∧ t.input = [] ∧ t.output = s.output ∧
      t = State.respond 0 0 { s with ibuf := t.ibuf, ilen := 0 } ∧
      (s.ilen = 0 → Inv s → t = s.respond 0 0) ∧
      ∀ (a : BitVec 16) (u : State), exec (.rdi a) t = .next u → u.resps = t.resps ++ [⟨2, 0⟩])

/-- R210, R211: RDI and RDO return a valid byte of their buffer and change nothing; an index at or beyond the length raises
BadAddress. -/
def Obligations.RdiAndRdoReadValidBytes : Prop :=
  otherWordsRefused 0x1A000000 0xFF0000FF ∧ otherWordsRefused 0x1B000000 0xFF0000FF ∧ ∀ (a : BitVec 16) (s : State) (x : Word), x = a.setWidth 32 <<< 8 →
    decode (0x1A000000 ||| x) = .ok (.rdi a) ∧ decode (0x1B000000 ||| x) = .ok (.rdo a) ∧
    (s.err ≠ 0 → exec (.rdi a) s = .next (s.respond 0x0F 0) ∧ exec (.rdo a) s = .next (s.respond 0x0F 0)) ∧
    (s.err = 0 → s.ilen.toNat ≤ a.toNat →
      exec (.rdi a) s = .next (State.respond 2 0 { s with err := 2, errcmd := 0x1A000000 ||| x })) ∧
    (s.err = 0 → s.olen.toNat ≤ a.toNat →
      exec (.rdo a) s = .next (State.respond 2 0 { s with err := 2, errcmd := 0x1B000000 ||| x })) ∧
    (s.err = 0 → ∀ h : a.toNat < s.input.length,
      exec (.rdi a) s = .next (s.respond 0 (BitVec.ofNat 32 s.input[a.toNat].toNat))) ∧
    (s.err = 0 → ∀ h : a.toNat < s.output.length,
      exec (.rdo a) s = .next (s.respond 0 (BitVec.ofNat 32 s.output[a.toNat].toNat)))

/-- R212: APPO appends the tail of OBUF to IBUF whole or not at all; the bytes of IBUF outside the appended run, all of OBUF
and everything else are unchanged. -/
def Obligations.AppoAppendsTail : Prop :=
  otherWordsRefused 0x1C000000 0xFF0000FF ∧ ∀ (a : BitVec 16) (s : State) (w : Word) (n : Nat), w = 0x1C000000 ||| (a.setWidth 32 <<< 8) →
    n = s.olen.toNat - a.toNat →
    decode w = .ok (.appo a) ∧
    (s.err ≠ 0 → exec (.appo a) s = .next (s.respond 0x0F 0)) ∧
    (s.err = 0 → s.olen.toNat < a.toNat →
      exec (.appo a) s = .next (State.respond 2 0 { s with err := 2, errcmd := w })) ∧
    (s.err = 0 → a.toNat ≤ s.olen.toNat → s.cap.toNat < s.ilen.toNat + n →
      exec (.appo a) s = .next (State.respond 6 0 { s with err := 6, errcmd := w })) ∧
    (s.err = 0 → a.toNat ≤ s.olen.toNat → s.ilen.toNat + n ≤ s.cap.toNat →
      ∃ m, exec (.appo a) s =
          .next (State.respond 0 0 { s with ibuf := m, ilen := BitVec.ofNat 16 (s.ilen.toNat + n) }) ∧
        (s.ibuf.wf = true →
          (∀ x, x < s.ilen.toNat ∨ s.ilen.toNat + n ≤ x → m.read x = s.ibuf.read x) ∧
          (∀ k, k < n → m.read (s.ilen.toNat + k) = s.obuf.read (a.toNat + k)) ∧
          m.toList (s.ilen.toNat + n) = s.input ++ s.output.drop a.toNat))

/-! ## Field arithmetic -/

/-- R120: gfmul is the product of polynomials over GF(2) reduced modulo 0x11B. -/
def Obligations.GfmulIsPolynomialProduct : Prop :=
  ∀ a b : Byte, (gfmul a b).toNat = polyMod (polyMul a.toNat b.toNat)

/-- R123: GFMUL returns the product and changes nothing. -/
def Obligations.GfmulReturnsProduct : Prop :=
  otherWordsRefused 0x20000000 0xFFFF0000 ∧ ∀ (a b : Byte) (s : State),
    decode (0x20000000 ||| (a.setWidth 32 <<< 8) ||| b.setWidth 32) = .ok (.gfmul a b) ∧
    (s.err ≠ 0 → exec (.gfmul a b) s = .next (s.respond 0x0F 0)) ∧
    (s.err = 0 → exec (.gfmul a b) s = .next (s.respond 0 (BitVec.ofNat 32 (gfmul a b).toNat)))

/-- The laws of the field (40_gf_arithmetic.md, section 1). -/
def Obligations.FieldLaws : Prop :=
  (∀ a b, gfmul a b = gfmul b a) ∧ (∀ a, gfmul a 0 = 0) ∧ (∀ a, gfmul a 1 = a) ∧
  (∀ a b c, gfmul a (b ^^^ c) = gfmul a b ^^^ gfmul a c) ∧
  (∀ a b c, gfmul (gfmul a b) c = gfmul a (gfmul b c)) ∧
  ∀ a : Byte, a ≠ 0 → ∃ b, gfmul a b = 1 ∧ ∀ b', gfmul a b' = 1 → b' = b

/-! ## Block transform -/

/-- The construction that reproduces SBOX (41_block_transform.md, section 2): the field inverse, then the affine map; a
bijection with no fixed point. -/
def Obligations.SboxIsAffineOfInverse : Prop :=
  (∀ x y : Byte, (x = 0 ∧ y = 0 ∨ gfmul x y = 1) →
    sbox x = y ^^^ y.rotateLeft 1 ^^^ y.rotateLeft 2 ^^^ y.rotateLeft 3 ^^^ y.rotateLeft 4 ^^^ 0x63) ∧
  (∀ x : Byte, sbox x ≠ x) ∧ Function.Bijective sbox

/-- R133: byte substitution works byte by byte, and the two directions undo each other on every block. -/
def Obligations.SubBytesInverts : Prop :=
  ∀ s : Block, (∀ n : Fin 16, (subBytes s)[n] = sbox s[n] ∧ (invSubBytes s)[n] = invSbox s[n]) ∧
    invSubBytes (subBytes s) = s ∧ subBytes (invSubBytes s) = s

/-- R136, R138: the entry of row r, column c comes from column (c + r) mod 4, or (c - r) mod 4 on decrypt; the two
directions undo each other. -/
def Obligations.RowShiftRotatesRows : Prop :=
  ∀ s : Block,
    (∀ r c : Fin 4, (shiftRows s)[r.val + 4 * c.val] = s[r.val + 4 * ((c.val + r.val) % 4)] ∧
      (invShiftRows s)[r.val + 4 * ((c.val + r.val) % 4)] = s[r.val + 4 * c.val]) ∧
    (shiftRows s).toList = [0, 5, 10, 15, 4, 9, 14, 3, 8, 13, 2, 7, 12, 1, 6, 11].map (fun n : Fin 16 => s[n]) ∧
    (invShiftRows s).toList = [0, 13, 10, 7, 4, 1, 14, 11, 8, 5, 2, 15, 12, 9, 6, 3].map (fun n : Fin 16 => s[n]) ∧
    invShiftRows (shiftRows s) = s ∧ shiftRows (invShiftRows s) = s

/-- R140: the new column is the matrix times the old column, row by row. -/
def Obligations.MixColumnsMultipliesColumns : Prop :=
  ∀ (s : Block) (c : Fin 4) (x0 x1 x2 x3 : Byte),
    x0 = s[4 * c.val] → x1 = s[1 + 4 * c.val] → x2 = s[2 + 4 * c.val] → x3 = s[3 + 4 * c.val] →
    (mixColumns s)[4 * c.val] = gfmul 2 x0 ^^^ gfmul 3 x1 ^^^ x2 ^^^ x3 ∧
    (mixColumns s)[1 + 4 * c.val] = x0 ^^^ gfmul 2 x1 ^^^ gfmul 3 x2 ^^^ x3 ∧
    (mixColumns s)[2 + 4 * c.val] = x0 ^^^ x1 ^^^ gfmul 2 x2 ^^^ gfmul 3 x3 ∧
    (mixColumns s)[3 + 4 * c.val] = gfmul 3 x0 ^^^ x1 ^^^ x2 ^^^ gfmul 2 x3

/-- The inverse column mix undoes the column mix on every block, and the other way round (41_block_transform.md,
section 4). -/
def Obligations.InvMixColumnsInverts : Prop :=
  ∀ s : Block, invMixColumns (mixColumns s) = s ∧ mixColumns (invMixColumns s) = s

/-- R144: round-key combination XORs byte n with byte 16*r + n of RK; it is its own inverse. -/
def Obligations.AddRoundKeyIsInvolution : Prop :=
  ∀ (rk : Bytes 240) (r : Fin 15) (s : Block),
    (∀ n : Fin 16, (addRoundKey rk r s)[n] = s[n] ^^^ rk[16 * r.val + n.val]) ∧
    addRoundKey rk r (addRoundKey rk r s) = s

/-- R134, R135, R137, R139, R141, R143: the six keyless step commands replace BLK by their function of the old BLK; nothing
else changes. -/
def Obligations.StepCommandsTransformBlk : Prop :=
  ∀ s : State, ∀ p ∈ [(Instr.subb, (0x21000000 : Word), subBytes s.blk), (.isubb, 0x22000000, invSubBytes s.blk),
      (.shrow, 0x23000000, shiftRows s.blk), (.ishrow, 0x24000000, invShiftRows s.blk),
      (.mixc, 0x25000000, mixColumns s.blk), (.imixc, 0x26000000, invMixColumns s.blk)],
    decode p.2.1 = .ok p.1 ∧ otherWordsRefused p.2.1 0xFFFFFFFF ∧
    (s.err ≠ 0 → exec p.1 s = .next (s.respond 0x0F 0)) ∧
    (s.err = 0 → exec p.1 s = .next (State.respond 0 0 { s with blk := p.2.2 }))

/-- R145: ARK combines BLK with the round key; the round number is checked before the key schedule. -/
def Obligations.ArkCombinesRoundKey : Prop :=
  otherWordsRefused 0x27000000 0xFFFFFF00 ∧ ∀ (r : Byte) (s : State) (w : Word), w = 0x27000000 ||| r.setWidth 32 →
    decode w = .ok (.ark r) ∧
    (s.err ≠ 0 → exec (.ark r) s = .next (s.respond 0x0F 0)) ∧
    (s.err = 0 → 15 ≤ r.toNat → exec (.ark r) s = .next (State.respond 2 0 { s with err := 2, errcmd := w })) ∧
    (s.err = 0 → r.toNat < 15 → s.kvalid = false →
      exec (.ark r) s = .next (State.respond 3 0 { s with err := 3, errcmd := w })) ∧
    (s.err = 0 → ∀ h : r.toNat < 15, s.kvalid = true →
      ∃ b : Block, exec (.ark r) s = .next (State.respond 0 0 { s with blk := b }) ∧
        ∀ n : Fin 16, b[n] = s.blk[n] ^^^ s.rk[16 * r.toNat + n.val])

/-! ## Key schedule -/

/-- R152: the schedule is the 60 words of the recurrence, with the three cases of the transformed previous word. -/
def Obligations.ExpandFollowsRecurrence : Prop :=
  ∀ (key : Bytes 32) (w : Nat → KeyWord), (∀ i, w i = wordAt (expand key) i) →
    (expand key).length = 60 ∧
    (∀ i j : Nat, ∀ _ : i < 8, ∀ _ : j < 4, keyWordByte (w i) j = key[4 * i + j]) ∧
    (∀ i, 8 ≤ i → i < 60 →
      (i % 8 = 0 → w i = xorWord (w (i - 8))
        (xorWord (subWord (rotWord (w (i - 1)))) ⟨(1 : Byte) <<< (i / 8 - 1), 0, 0, 0⟩)) ∧
      (i % 8 = 4 → w i = xorWord (w (i - 8)) (subWord (w (i - 1)))) ∧
      (i % 8 ≠ 0 → i % 8 ≠ 4 → w i = xorWord (w (i - 8)) (w (i - 1))))

/-- R153: byte j of column c of round key r is byte j of word 4*r + c; round keys 0 and 1 together are the key. -/
def Obligations.RoundKeysAreScheduleColumns : Prop :=
  ∀ key : Bytes 32,
    (∀ (r : Fin 15) (c j : Fin 4), (roundKey (expandKey key) r)[4 * c.val + j.val] =
      keyWordByte (wordAt (expand key) (4 * r.val + c.val)) j.val) ∧
    (∀ (r : Fin 15) (n : Fin 16), (roundKey (expandKey key) r)[n] = (expandKey key)[16 * r.val + n.val]) ∧
    ∀ n : Fin 32, (expandKey key)[n.val] = key[n]

/-- R154: KEYEXP writes the schedule of KEY to RK and sets KVALID; nothing else changes; a second one changes nothing. -/
def Obligations.KeyexpWritesSchedule : Prop :=
  decode 0x28000000 = .ok .keyexp ∧ otherWordsRefused 0x28000000 0xFFFFFFFF ∧
  ∀ s : State,
    (s.err ≠ 0 → exec .keyexp s = .next (s.respond 0x0F 0)) ∧
    (s.err = 0 → ∃ t, exec .keyexp s = .next t ∧ t = State.respond 0 0 { s with rk := t.rk, kvalid := true } ∧
      (∀ (i : Fin 60) (j : Fin 4), t.rk[4 * i.val + j.val] = keyWordByte (wordAt (expand s.key) i.val) j.val) ∧
      ∃ u, exec .keyexp t = .next u ∧ u.rk = t.rk)

/-! ## Block cipher -/

/-- R160, R161: the 14 rounds of encryption and the mirror sequence of decryption, the state after round r given by any
function that follows the rule; the inverse substitution and the inverse row shift commute. -/
def Obligations.CipherFollowsRounds : Prop :=
  (∀ s : Block, invSubBytes (invShiftRows s) = invShiftRows (invSubBytes s)) ∧ ∀ (rk : Bytes 240) (s : Block) (e d : Nat → Block),
    e 0 = addRoundKey rk 0 s →
    (∀ r, ∀ h : r < 13, e (r + 1) = addRoundKey rk ⟨r + 1, by omega⟩ (mixColumns (shiftRows (subBytes (e r))))) →
    d 14 = invSubBytes (invShiftRows (addRoundKey rk 14 s)) →
    (∀ r, 1 ≤ r → ∀ h : r ≤ 13,
      d r = invSubBytes (invShiftRows (invMixColumns (addRoundKey rk ⟨r, by omega⟩ (d (r + 1)))))) →
    encryptBlock rk s = addRoundKey rk 14 (shiftRows (subBytes (e 13))) ∧
    decryptBlock rk s = addRoundKey rk 0 (d 1)

/-- R164: decryption undoes encryption and encryption undoes decryption, for every schedule and every block, as functions
and as commands. -/
def Obligations.DecryptUndoesEncrypt : Prop :=
  (∀ (rk : Bytes 240) (s : Block), decryptBlock rk (encryptBlock rk s) = s ∧ encryptBlock rk (decryptBlock rk s) = s) ∧
  ∀ s : State, s.err = 0 → s.kvalid = true →
    (∃ t u, exec .encblk s = .next t ∧ exec .decblk t = .next u ∧ u.blk = s.blk) ∧
    ∃ t u, exec .decblk s = .next t ∧ exec .encblk t = .next u ∧ u.blk = s.blk

/-- R162, R163: ENCBLK and DECBLK work on BLK in place with the schedule RK; without a valid schedule they raise
NoKeySchedule; nothing else changes. -/
def Obligations.EncblkAndDecblkTransformBlk : Prop :=
  decode 0x29000000 = .ok .encblk ∧ decode 0x2A000000 = .ok .decblk ∧
  otherWordsRefused 0x29000000 0xFFFFFFFF ∧ otherWordsRefused 0x2A000000 0xFFFFFFFF ∧
  ∀ s : State,
    (s.err ≠ 0 → exec .encblk s = .next (s.respond 0x0F 0) ∧ exec .decblk s = .next (s.respond 0x0F 0)) ∧
    (s.err = 0 → s.kvalid = false →
      exec .encblk s = .next (State.respond 3 0 { s with err := 3, errcmd := 0x29000000 }) ∧
      exec .decblk s = .next (State.respond 3 0 { s with err := 3, errcmd := 0x2A000000 })) ∧
    (s.err = 0 → s.kvalid = true →
      exec .encblk s = .next (State.respond 0 0 { s with blk := encryptBlock s.rk s.blk }) ∧
      exec .decblk s = .next (State.respond 0 0 { s with blk := decryptBlock s.rk s.blk }))

/-! ## Padding -/

/-- R170, R172: what pad appends, and exactly when unpad succeeds and with what. -/
def Obligations.PadAndUnpadFollowRules : Prop :=
  (∀ (d : List Byte) (p : Nat), p = 16 - d.length % 16 →
    1 ≤ p ∧ p ≤ 16 ∧ (pad d).length = 16 * (d.length / 16 + 1) ∧ (pad d).take d.length = d ∧
    ∀ k, d.length ≤ k → k < d.length + p → (pad d)[k]? = some (BitVec.ofNat 8 p)) ∧
  ∀ d r : List Byte, unpad d = some r ↔
    ∃ p : Byte, d.getLast? = some p ∧ 1 ≤ p.toNat ∧ p.toNat ≤ 16 ∧ p.toNat ≤ d.length ∧
      (∀ k, d.length - p.toNat ≤ k → k < d.length → d[k]? = some p) ∧ r = d.take (d.length - p.toNat)

/-- R174: unpad recovers what pad was given, for every sequence; unpad fails for a last byte of 0 or above 16 and for
inconsistent trailing bytes; and PAD, MOVO, UNPAD recover the content of IBUF when the padded length fits. -/
def Obligations.UnpadRecoversPadded : Prop :=
  (∀ d : List Byte, unpad (pad d) = some d) ∧
  (∀ (d : List Byte) (p : Byte), d.getLast? = some p →
    (p = 0 ∨ 16 < p.toNat ∨ ∃ k b, d.length - p.toNat ≤ k ∧ d[k]? = some b ∧ b ≠ p) → unpad d = none) ∧
  ∀ s : State, s.err = 0 → s.ilen.toNat + 16 - s.ilen.toNat % 16 ≤ s.cap.toNat →
    ∃ t u v x, exec .pad s = .next t ∧ exec .clri t = .next u ∧ exec (.appo 0) u = .next v ∧ exec .unpad v = .next x ∧
      x.output = s.input ∧ x.err = 0

/-- R171: PAD writes the padded content of IBUF to OBUF, or raises Overflow; IBUF and everything else are unchanged. -/
def Obligations.PadWritesPaddedInput : Prop :=
  decode 0x30000000 = .ok .pad ∧ otherWordsRefused 0x30000000 0xFFFFFFFF ∧
  ∀ (s : State) (p : Nat), p = 16 - s.ilen.toNat % 16 →
    (s.err ≠ 0 → exec .pad s = .next (s.respond 0x0F 0)) ∧
    (s.err = 0 → s.cap.toNat < s.ilen.toNat + p →
      exec .pad s = .next (State.respond 6 0 { s with err := 6, errcmd := 0x30000000 })) ∧
    (s.err = 0 → s.ilen.toNat + p ≤ s.cap.toNat →
      ∃ t, exec .pad s = .next t ∧ t.olen.toNat = s.ilen.toNat + p ∧
        t.output = s.input ++ List.replicate p (BitVec.ofNat 8 p) ∧
        t = State.respond 0 0 { s with obuf := t.obuf, olen := t.olen })

/-- R173, R255: UNPAD writes the content of IBUF without its padding to OBUF, or raises PaddingError and leaves OBUF and OLEN
alone; IBUF and everything else are unchanged. The four failure conditions are read from the bytes of IBUF. -/
def Obligations.UnpadRemovesPadding : Prop :=
  decode 0x31000000 = .ok .unpad ∧ otherWordsRefused 0x31000000 0xFFFFFFFF ∧
  ∀ (s : State) (n : Nat) (p : Byte), n = s.ilen.toNat → p = s.ibuf.read (n - 1) →
    (s.err ≠ 0 → exec .unpad s = .next (s.respond 0x0F 0)) ∧
    (s.err = 0 → (n = 0 ∨ p = 0 ∨ 16 < p.toNat ∨ n < p.toNat ∨
        ∃ k, n - p.toNat ≤ k ∧ k < n ∧ s.ibuf.read k ≠ p) →
      exec .unpad s = .next (State.respond 5 0 { s with err := 5, errcmd := 0x31000000 })) ∧
    (s.err = 0 → 1 ≤ p.toNat → p.toNat ≤ 16 → p.toNat ≤ n →
        (∀ k, n - p.toNat ≤ k → k < n → s.ibuf.read k = p) →
      ∃ t, exec .unpad s = .next t ∧ t.olen.toNat = n - p.toNat ∧ t.output = s.input.take (n - p.toNat) ∧
        t = State.respond 0 0 { s with obuf := t.obuf, olen := t.olen })

/-! ## Chained mode -/

/-- R180, R182: chunk k of the output, and the final chaining value, for a sequence of m whole chunks. -/
def Obligations.CbcFollowsChain : Prop :=
  ∀ (rk : Bytes 240) (cv : Block) (d : List Byte) (m : Nat), d.length = 16 * m →
    (∀ (o : List Byte) (last : Block), cbcEncrypt rk cv d = (o, last) →
      o.length = 16 * m ∧
      (∀ k, k < m → chunkAt o k =
        encryptBlock rk (xorBlock (chunkAt d k) (if k = 0 then cv else chunkAt o (k - 1)))) ∧
      last = if m = 0 then cv else chunkAt o (m - 1)) ∧
    ∀ (o : List Byte) (last : Block), cbcDecrypt rk cv d = (o, last) →
      o.length = 16 * m ∧
      (∀ k, k < m → chunkAt o k =
        xorBlock (decryptBlock rk (chunkAt d k)) (if k = 0 then cv else chunkAt d (k - 1))) ∧
      last = if m = 0 then cv else chunkAt d (m - 1)

/-- Round trip and continuation of the chained mode (45_chaining.md, section 3): decryption from the same chaining value
recovers the input and ends with the same chaining value; a sequence may be processed in several loads. -/
def Obligations.CbcRoundTripAndContinuation : Prop :=
  (∀ (rk : Bytes 240) (cv : Block) (d : List Byte), d.length % 16 = 0 →
    ∀ o c, cbcEncrypt rk cv d = (o, c) → cbcDecrypt rk cv o = (d, c)) ∧
  ∀ (rk : Bytes 240) (cv : Block) (d₁ d₂ : List Byte), d₁.length % 16 = 0 → d₂.length % 16 = 0 →
    (∀ o₁ c₁ o₂ c₂, cbcEncrypt rk cv d₁ = (o₁, c₁) → cbcEncrypt rk c₁ d₂ = (o₂, c₂) →
      cbcEncrypt rk cv (d₁ ++ d₂) = (o₁ ++ o₂, c₂)) ∧
    ∀ o₁ c₁ o₂ c₂, cbcDecrypt rk cv d₁ = (o₁, c₁) → cbcDecrypt rk c₁ d₂ = (o₂, c₂) →
      cbcDecrypt rk cv (d₁ ++ d₂) = (o₁ ++ o₂, c₂)

/-- R181, R183: CBCENC and CBCDEC check the key, then the length; on success they write OBUF, OLEN and CV and nothing else
(IBUF and BLK stay). -/
def Obligations.CbcCommandsWriteOutputAndCv : Prop :=
  decode 0x32000000 = .ok .cbcenc ∧ decode 0x33000000 = .ok .cbcdec ∧
  otherWordsRefused 0x32000000 0xFFFFFFFF ∧ otherWordsRefused 0x33000000 0xFFFFFFFF ∧
  ∀ s : State, ∀ p ∈ [(Instr.cbcenc, (0x32000000 : Word), cbcEncrypt s.rk s.cv s.input),
      (.cbcdec, 0x33000000, cbcDecrypt s.rk s.cv s.input)],
    (s.err ≠ 0 → exec p.1 s = .next (s.respond 0x0F 0)) ∧
    (s.err = 0 → s.kvalid = false → exec p.1 s = .next (State.respond 3 0 { s with err := 3, errcmd := p.2.1 })) ∧
    (s.err = 0 → s.kvalid = true → s.ilen.toNat % 16 ≠ 0 →
      exec p.1 s = .next (State.respond 4 0 { s with err := 4, errcmd := p.2.1 })) ∧
    (s.err = 0 → s.kvalid = true → s.ilen.toNat % 16 = 0 →
      ∃ t, exec p.1 s = .next t ∧ t.olen = s.ilen ∧ t.output = p.2.2.1 ∧ t.cv = p.2.2.2 ∧
        t = State.respond 0 0 { s with obuf := t.obuf, olen := t.olen, cv := t.cv })

/-! ## Text codec -/

/-- The alphabet (46_text_codec.md, section 1): A-Z, a-z, 0-9, +, / in this order are the symbol values 0 to 63, and a byte
has a value exactly when it is one of those characters. -/
def Obligations.AlphabetAndValuesAgree : Prop :=
  (List.range 64).map alpha =
    "ABCDEFGHIJKLMNOPQRSTUVWXYZabcdefghijklmnopqrstuvwxyz0123456789+/".toList.map (fun c => BitVec.ofNat 8 c.toNat) ∧
  (∀ (ch : Byte) (v : Nat), symbolValue ch = some v ↔ v < 64 ∧ alpha v = ch) ∧
  symbolValue padMark = none

/-- R192, R194: symbol j of the text is the value of bits 6*j to 6*j+5 of the bytes, zeros filling the last, and `=` up to
a multiple of 4; decoded byte j is bits 8*j to 8*j+7 of the values of the leading alphabet characters, incomplete bytes
dropped; the accumulator forms give the same; the lengths and the number of pad marks. -/
def Obligations.TextCodecPacksBits : Prop :=
  (∀ d : List Byte, textEncodeAcc d = textEncode d ∧ (textEncode d).length = 4 * ((d.length + 2) / 3) ∧
    (textEncode d).count padMark = (3 - d.length % 3) % 3 ∧
    (∀ j, 6 * j < 8 * d.length →
      (textEncode d)[j]? = some (alpha (numberOfBits 6 fun k => bitOfBytes d (6 * j + k)))) ∧
    ∀ j, 8 * d.length ≤ 6 * j → j < 4 * ((d.length + 2) / 3) → (textEncode d)[j]? = some padMark) ∧
  ∀ (t : List Byte) (n : Nat), n = (t.takeWhile fun ch => (symbolValue ch).isSome).length →
    textDecodeAcc t = textDecode t ∧ (textDecode t).length = 6 * n / 8 ∧
    ∀ j, 8 * j + 8 ≤ 6 * n →
      (textDecode t)[j]? = some (BitVec.ofNat 8 (numberOfBits 8 fun k => bitOfSymbols t (8 * j + k)))

/-- R196: decoding an encoded sequence gives it back, and an encoded length is a multiple of 4; B64ENC, MOVO, B64DEC recover
the content of IBUF when the text fits. -/
def Obligations.TextRoundTrip : Prop :=
  (∀ d : List Byte, textDecode (textEncode d) = d ∧ (textEncode d).length % 4 = 0) ∧
  ∀ s : State, s.err = 0 → 4 * ((s.ilen.toNat + 2) / 3) ≤ s.cap.toNat →
    ∃ t u v x, exec .b64enc s = .next t ∧ exec .clri t = .next u ∧ exec (.appo 0) u = .next v ∧
      exec .b64dec v = .next x ∧ x.output = s.input

/-- R193, R195: B64ENC writes the text of IBUF to OBUF, or raises Overflow; B64DEC writes the decoded bytes and never raises
on its data; IBUF and everything else are unchanged. -/
def Obligations.TextCommandsWriteOutput : Prop :=
  decode 0x34000000 = .ok .b64enc ∧ decode 0x35000000 = .ok .b64dec ∧
  otherWordsRefused 0x34000000 0xFFFFFFFF ∧ otherWordsRefused 0x35000000 0xFFFFFFFF ∧
  ∀ (s : State) (m : Nat), m = 4 * ((s.ilen.toNat + 2) / 3) →
    (s.err ≠ 0 → exec .b64enc s = .next (s.respond 0x0F 0) ∧ exec .b64dec s = .next (s.respond 0x0F 0)) ∧
    (s.err = 0 → s.cap.toNat < m →
      exec .b64enc s = .next (State.respond 6 0 { s with err := 6, errcmd := 0x34000000 })) ∧
    (s.err = 0 → m ≤ s.cap.toNat →
      ∃ t, exec .b64enc s = .next t ∧ t.olen.toNat = m ∧ t.output = textEncode s.input ∧
        t = State.respond 0 0 { s with obuf := t.obuf, olen := t.olen }) ∧
    (s.err = 0 →
      ∃ t, exec .b64dec s = .next t ∧ t.olen.toNat = (textDecode s.input).length ∧ t.output = textDecode s.input ∧
        t = State.respond 0 0 { s with obuf := t.obuf, olen := t.olen })
end

