-- ==== Sys2Proof/Laws/Bytes.lean ====
section
/-! SUPPORT. Byte arrays: the byte at an index of each array the model builds. -/

namespace Sys2Proof

@[simp] theorem tabulate_getElem {n : Nat} (f : Fin n → Byte) (i : Nat) (h : i < n) : (tabulate f)[i] = f ⟨i, h⟩ := by
  simp [tabulate]

@[simp] theorem tabulate_getFin {n : Nat} (f : Fin n → Byte) (i : Fin n) : (tabulate f)[i] = f i := by
  simp [tabulate]

/-- Two byte arrays are equal when they agree at every index. -/
theorem bytes_ext {n : Nat} {s t : Bytes n} (h : ∀ i : Fin n, s[i] = t[i]) : s = t := by
  apply Vector.ext
  intro i hi
  exact h ⟨i, hi⟩

@[simp] theorem bytesOfList_getFin {n : Nat} (l : List Byte) (i : Fin n) : (bytesOfList n l)[i] = l.getD i.val 0 := by
  simp [bytesOfList]

namespace Machine

@[simp] theorem subBytes_getFin (s : Block) (n : Fin 16) : (subBytes s)[n] = sbox s[n] := tabulate_getFin _ n
@[simp] theorem invSubBytes_getFin (s : Block) (n : Fin 16) : (invSubBytes s)[n] = invSbox s[n] := tabulate_getFin _ n
@[simp] theorem shiftRows_getFin (s : Block) (n : Fin 16) :
    (shiftRows s)[n] = s[matrixIndex (n.val % 4) (n.val / 4 + n.val % 4)] := tabulate_getFin _ n
@[simp] theorem invShiftRows_getFin (s : Block) (n : Fin 16) :
    (invShiftRows s)[n] = s[matrixIndex (n.val % 4) (n.val / 4 + 4 - n.val % 4)] := tabulate_getFin _ n
@[simp] theorem xorBlock_getFin (s t : Block) (n : Fin 16) : (xorBlock s t)[n] = s[n] ^^^ t[n] := tabulate_getFin _ n
@[simp] theorem roundKey_getFin (rk : Bytes 240) (r : Fin 15) (n : Fin 16) :
    (roundKey rk r)[n] = rk[16 * r.val + n.val] := tabulate_getFin _ n
@[simp] theorem addRoundKey_getFin (rk : Bytes 240) (r : Fin 15) (s : Block) (n : Fin 16) :
    (addRoundKey rk r s)[n] = s[n] ^^^ rk[16 * r.val + n.val] := by
  simp only [addRoundKey, xorBlock_getFin, roundKey_getFin]
@[simp] theorem scheduleBytes_getFin (ws : List KeyWord) (n : Fin 240) :
    (scheduleBytes ws)[n] = keyWordByte (wordAt ws (n.val / 4)) (n.val % 4) := tabulate_getFin _ n

/-- The byte of a mixed column (R140). -/
theorem mixWith_getFin (mx : List (List Byte)) (s : Block) (n : Fin 16) :
    (mixWith mx s)[n] =
      gfmul (matrixEntry mx (n.val % 4) 0) s[matrixIndex 0 (n.val / 4)] ^^^
      gfmul (matrixEntry mx (n.val % 4) 1) s[matrixIndex 1 (n.val / 4)] ^^^
      gfmul (matrixEntry mx (n.val % 4) 2) s[matrixIndex 2 (n.val / 4)] ^^^
      gfmul (matrixEntry mx (n.val % 4) 3) s[matrixIndex 3 (n.val / 4)] := tabulate_getFin _ n

end Machine

end Sys2Proof
end

