-- ==== Sys2Proof/Laws/Encoding.lean ====
section
/-! SUPPORT. The encoders, the fields and the must-be-zero checks as numbers, so that statements about words are linear arithmetic. -/

namespace Sys2Proof

theorem append_toNat {m n : Nat} (x : BitVec m) (y : BitVec n) : (x ++ y).toNat = x.toNat * 2 ^ n + y.toNat := by
  rw [BitVec.toNat_append, Nat.shiftLeft_eq, Nat.mul_comm, ← Nat.two_pow_add_eq_or_of_lt y.isLt]

theorem encodeN_toNat (op : Byte) : (encodeN op).toNat = op.toNat * 2 ^ 24 :=
  (append_toNat op (0 : BitVec 24)).trans (by simp)

theorem encodeI_toNat (op n : Byte) : (encodeI op n).toNat = op.toNat * 2 ^ 24 + n.toNat := by
  refine (append_toNat (op ++ (0 : BitVec 16)) n).trans ?_
  rw [append_toNat]
  simp only [BitVec.ofNat_eq_ofNat, BitVec.toNat_ofNat]
  omega

theorem encodeA_toNat (op : Byte) (a : BitVec 16) : (encodeA op a).toNat = op.toNat * 2 ^ 24 + a.toNat * 2 ^ 8 := by
  refine (append_toNat (op ++ a) (0 : BitVec 8)).trans ?_
  rw [append_toNat]
  simp only [BitVec.ofNat_eq_ofNat, BitVec.toNat_ofNat]
  omega

theorem encodeAI_toNat (op : Byte) (a : BitVec 16) (b : Byte) :
    (encodeAI op a b).toNat = op.toNat * 2 ^ 24 + a.toNat * 2 ^ 8 + b.toNat := by
  refine (append_toNat (op ++ a) b).trans ?_
  rw [append_toNat]
  omega

theorem encodeG_toNat (op a b : Byte) :
    (encodeG op a b).toNat = op.toNat * 2 ^ 24 + a.toNat * 2 ^ 8 + b.toNat := by
  refine (append_toNat (op ++ (0 : BitVec 8) ++ a) b).trans ?_
  rw [append_toNat, append_toNat]
  simp only [BitVec.ofNat_eq_ofNat, BitVec.toNat_ofNat]
  omega

theorem opcodeField_toNat (w : Word) : (opcodeField w).toNat = w.toNat / 2 ^ 24 := by
  simp only [opcodeField, BitVec.extractLsb'_toNat, Nat.shiftRight_eq_div_pow]
  omega

theorem addr16Field_toNat (w : Word) : (addr16Field w).toNat = w.toNat / 2 ^ 8 % 2 ^ 16 := by
  simp only [addr16Field, BitVec.extractLsb'_toNat, Nat.shiftRight_eq_div_pow]

theorem imm8Field_toNat (w : Word) : (imm8Field w).toNat = w.toNat % 2 ^ 8 := by
  simp only [imm8Field, BitVec.extractLsb'_toNat, Nat.shiftRight_eq_div_pow]
  omega

theorem aField_toNat (w : Word) : (aField w).toNat = w.toNat / 2 ^ 8 % 2 ^ 8 := by
  simp only [aField, BitVec.extractLsb'_toNat, Nat.shiftRight_eq_div_pow]

theorem mustBeZeroOk_N (w : Word) : mustBeZeroOk .N w = true ↔ w.toNat % 2 ^ 24 = 0 := by
  simp [mustBeZeroOk, ← BitVec.toNat_inj, BitVec.extractLsb'_toNat]

theorem mustBeZeroOk_I (w : Word) : mustBeZeroOk .I w = true ↔ w.toNat / 2 ^ 8 % 2 ^ 16 = 0 := by
  simp [mustBeZeroOk, ← BitVec.toNat_inj, BitVec.extractLsb'_toNat, Nat.shiftRight_eq_div_pow]

theorem mustBeZeroOk_A (w : Word) : mustBeZeroOk .A w = true ↔ w.toNat % 2 ^ 8 = 0 := by
  simp [mustBeZeroOk, ← BitVec.toNat_inj, BitVec.extractLsb'_toNat]

theorem mustBeZeroOk_AI (w : Word) : mustBeZeroOk .AI w = true := rfl

theorem mustBeZeroOk_G (w : Word) : mustBeZeroOk .G w = true ↔ w.toNat / 2 ^ 16 % 2 ^ 8 = 0 := by
  simp [mustBeZeroOk, ← BitVec.toNat_inj, BitVec.extractLsb'_toNat, Nat.shiftRight_eq_div_pow]

/-- What a word decodes to, in one step. -/
theorem decode_of_commandOf {w : Word} {i : Instr} (h : commandOf w = some i) (hz : mustBeZeroOk i.format w = true) :
    decode w = .ok i := by
  simp only [decode, h, hz, if_true]

/-- If a word decodes to a command, its opcode selects the command and its must-be-zero bits are zero. -/
theorem decode_ok_cases {w : Word} {i : Instr} (h : decode w = .ok i) :
    commandOf w = some i ∧ mustBeZeroOk i.format w = true := by
  unfold decode at h
  split at h
  · cases h
  · rename_i j hj
    split at h
    · rename_i hz
      cases h
      exact ⟨hj, hz⟩
    · cases h

end Sys2Proof
end

