-- ==== Sys2Proof/Machine/Facade.lean ====
section
/-!
DEFINITION. Software around the core, written as functions over the step: the pseudo-instructions (spec/30_encoding.md
R100) and the host's key derivation, encrypt and decrypt sequences with their sentinels (spec/49_host_pipeline.md R231 to
R236). Nothing here is behaviour of the core (R230), and nothing in the machine depends on it (log 14).
-/

namespace Sys2Proof.Machine

/-! ### Pseudo-instructions (R100) -/

/-- LDKEY: 32 WRKEY, index ascending. -/
def ldkey (k : Bytes 32) : List Instr := (List.finRange 32).map fun i => .wrkey (BitVec.ofNat 16 i.val) k[i]

/-- LDBLK: 16 WRBLK. -/
def ldblk (b : Block) : List Instr := (List.finRange 16).map fun i => .wrblk (BitVec.ofNat 16 i.val) b[i]

/-- LDCV: 16 WRCV. -/
def ldcv (b : Block) : List Instr := (List.finRange 16).map fun i => .wrcv (BitVec.ofNat 16 i.val) b[i]

/-- PUSHX: one PUSHI for each byte. -/
def pushx (l : List Byte) : List Instr := l.map .pushi

/-- The ASCII codes of a text (R191, R236). -/
def asciiBytes (t : String) : List Byte := t.toList.map fun c => BitVec.ofNat 8 c.toNat

/-- PUSHS: one PUSHI for each character. -/
def pushs (t : String) : List Instr := pushx (asciiBytes t)

/-- MOVO: CLRI, then APPO 0. -/
def movo : List Instr := [.clri, .appo 0]

/-! ### Issuing commands -/

/-- The host issues one command word and reads its response. -/
def issue (w : Word) (s : State) : Option Response × State :=
  match step { s with port := .command w :: s.port } with
  | .next t => (t.resps.getLast?, t)
  | .fault _ => (none, s)
  | .refused _ => (none, s)

/-- The completion code of a command and the state after it. -/
def issueCc (i : Instr) (s : State) : Byte × State :=
  let (r, t) := issue (encode i) s
  ((r.map (·.cc)).getD ccOk, t)

/-- The value of a command and the state after it. -/
def issueVal (i : Instr) (s : State) : Nat × State :=
  let (r, t) := issue (encode i) s
  ((r.map (·.val.toNat)).getD 0, t)

/-- A command sequence, the host checking cc after each command: the first cc that is not 0, if any (R237 point 4). -/
def issueAll : List Instr → State → Option Byte × State
  | [], s => (none, s)
  | i :: is, s =>
    let (cc, t) := issueCc i s
    if cc = ccOk then issueAll is t else (some cc, t)

/-- RDO 0 to RDO n-1, from index `a` on. -/
def readOutputFrom : Nat → Nat → State → List Byte × State
  | _, 0, s => ([], s)
  | a, n + 1, s =>
    let (v, t) := issueVal (.rdo (BitVec.ofNat 16 a)) s
    let (l, u) := readOutputFrom (a + 1) n t
    (BitVec.ofNat 8 v :: l, u)

/-- RDREG 4, then every byte of OBUF with RDO. -/
def readOutput (s : State) : List Byte × State :=
  let (n, t) := issueVal (.rdreg 4) s
  readOutputFrom 0 n t

/-! ### The facade -/

/-- `derive(password)`, `none` for KeyDerivationError (R231). -/
def deriveKey (password : List Byte) : Option (Bytes 32) :=
  if password.length = 0 then none
  else some (tabulate fun i => password.getD (i.val % password.length) 0 ^^^ BitVec.ofNat 8 (i.val * 7 % 256))

/-- The literal text `ENCRYPTION_ERROR` (R235). -/
def encryptionError : List Byte := asciiBytes "ENCRYPTION_ERROR"

/-- The literal text `DECRYPTION_ERROR` (R235). -/
def decryptionError : List Byte := asciiBytes "DECRYPTION_ERROR"

/-- The commands `is`, then `k`; if one of them raises, CLRERR and the sentinel (R234, R235). -/
def issueOrSentinel (sentinel : List Byte) (is : List Instr) (s : State) (k : State → List Byte × State) :
    List Byte × State :=
  match issueAll is s with
  | (some _, t) => (sentinel, (issueCc .clrerr t).2)
  | (none, t) => k t

/-- The commands of R233 up to B64ENC. -/
def encryptCommands (plaintext : List Byte) (key : Bytes 32) (iv : Block) : List Instr :=
  ldkey key ++ [.keyexp] ++ ldcv iv ++ [.clri] ++ pushx plaintext ++ [.pad] ++ movo ++ [.cbcenc, .clri] ++
    pushx iv.toList ++ [.appo 0, .b64enc]

/-- `encrypt(plaintext, password)` with the IV as an argument (R232, R233). A command that raises (Overflow) is mapped to
the sentinel after CLRERR. -/
def facadeEncrypt (plaintext password : List Byte) (iv : Block) (s : State) : List Byte × State :=
  match deriveKey password with
  | none => (encryptionError, s)
  | some key => issueOrSentinel encryptionError (encryptCommands plaintext key iv) s readOutput

/-- The commands of R234 up to B64DEC. -/
def decodeCommands (text : List Byte) : List Instr := [.clri] ++ pushx text ++ [.b64dec]

/-- The commands of R234 between the reading of the IV and the key derivation: IBUF = ciphertext. -/
def splitCommands (iv : Block) : List Instr := ldcv iv ++ [.clri, .appo 16]

/-- The commands of R234 after the key derivation. -/
def decryptCommands (key : Bytes 32) : List Instr := ldkey key ++ [.keyexp, .cbcdec] ++ movo ++ [.unpad]

/-- The end of R234, from the key derivation on. -/
def decryptWithPassword (password : List Byte) (s : State) : List Byte × State :=
  match deriveKey password with
  | none => (decryptionError, s)
  | some key => issueOrSentinel decryptionError (decryptCommands key) s readOutput

/-- `decrypt(text, password)` (R234), in the rule's order: the length check, the split into IV and ciphertext, and only
then the key derivation, so that an empty password leaves the IV in CV and the ciphertext in IBUF. -/
def facadeDecrypt (text password : List Byte) (s : State) : List Byte × State :=
  issueOrSentinel decryptionError (decodeCommands text) s fun t =>
    let (d, u) := issueVal (.rdreg 4) t
    if d < 32 then (decryptionError, u)
    else
      let (iv, v) := readOutputFrom 0 16 u
      issueOrSentinel decryptionError (splitCommands (bytesOfList 16 iv)) v (decryptWithPassword password)

end Sys2Proof.Machine
end

