-- ==== Sys2Proof/Laws/Facade.lean ====
section
/-! SUPPORT. What the host's sequences of commands can do, said once (spec/49_host_pipeline.md R234, R235). -/

namespace Sys2Proof.Machine

variable {sentinel password : List Byte} {is : List Instr} {s t : State} {k : State → List Byte × State}

theorem issueOrSentinel_of_ok (h : issueAll is s = (none, t)) : issueOrSentinel sentinel is s k = k t := by
  simp only [issueOrSentinel, h]

theorem issueOrSentinel_of_error {cc : Byte} (h : issueAll is s = (some cc, t)) :
    issueOrSentinel sentinel is s k = (sentinel, (issueCc .clrerr t).2) := by
  simp only [issueOrSentinel, h]

/-- Either every command succeeded and the sequence went on, or one raised: CLRERR and the sentinel (R235). -/
theorem issueOrSentinel_cases :
    (∃ t, issueAll is s = (none, t) ∧ issueOrSentinel sentinel is s k = k t) ∨
      ∃ cc t, issueAll is s = (some cc, t) ∧ issueOrSentinel sentinel is s k = (sentinel, (issueCc .clrerr t).2) := by
  rcases h : issueAll is s with ⟨_ | cc, t⟩
  · exact .inl ⟨t, rfl, issueOrSentinel_of_ok h⟩
  · exact .inr ⟨cc, t, rfl, issueOrSentinel_of_error h⟩

/-- The key derivation fails exactly for the empty password (R231). -/
theorem deriveKey_eq_none_iff : deriveKey password = none ↔ password = [] := by
  simp only [deriveKey]
  split <;> simp_all

/-- With an empty password the host issues no further command: the sentinel, in the state the split left (R234, R235). -/
theorem decryptWithPassword_nil : decryptWithPassword [] s = (decryptionError, s) := rfl

/-- R234 in its order: when the split into IV and ciphertext has succeeded, an empty password fails in the state the split
left, the IV in CV and the ciphertext in IBUF. -/
theorem split_then_empty_password {iv : Block} (h : issueAll (splitCommands iv) s = (none, t)) :
    issueOrSentinel decryptionError (splitCommands iv) s (decryptWithPassword []) = (decryptionError, t) :=
  issueOrSentinel_of_ok h

end Sys2Proof.Machine
end

