-- ==== Sys2Proof/Laws/Memory.lean ====
section
/-!
SUPPORT. The buffer memories: a read after a write, the canonical form, and the sequences read back. Every memory
operation keeps the canonical form (`write_wf`, `writeList_wf`, `ofList_wf`, `clearInput_wf`).
-/

namespace Sys2Proof.Machine

/-! ### The canonical form -/

theorem wfFrom_nil (lo : Nat) : Memory.wfFrom lo [] = true := rfl

theorem wfFrom_cons {lo a : Nat} {b : Byte} {m : Memory} :
    Memory.wfFrom lo ((a, b) :: m) = true ↔ lo ≤ a ∧ b ≠ unlistedByte ∧ Memory.wfFrom (a + 1) m = true := by
  simp [Memory.wfFrom, and_assoc]

/-- A lower starting address asks less. -/
theorem wfFrom_mono {lo lo' : Nat} (h : lo' ≤ lo) : ∀ {m : Memory}, Memory.wfFrom lo m = true → Memory.wfFrom lo' m = true
  | [], _ => rfl
  | (a, b) :: m, hm => by
    rw [wfFrom_cons] at hm ⊢
    exact ⟨le_trans h hm.1, hm.2⟩

/-- Below its first address a canonical memory lists nothing. -/
theorem read_of_lt_lo {lo a : Nat} (ha : a < lo) : ∀ {m : Memory}, Memory.wfFrom lo m = true → Memory.read m a = unlistedByte
  | [], _ => rfl
  | (a', b') :: m, hm => by
    rw [wfFrom_cons] at hm
    rw [Memory.read, if_neg (by omega)]
    exact read_of_lt_lo (by omega) hm.2.2

theorem cons_wfFrom {lo a : Nat} {b : Byte} {m : Memory} (h : lo ≤ a) (hm : Memory.wfFrom (a + 1) m = true) :
    Memory.wfFrom lo (Memory.cons a b m) = true := by
  unfold Memory.cons
  split
  · exact wfFrom_mono (by omega) hm
  · rename_i hb
    exact wfFrom_cons.2 ⟨h, hb, hm⟩

/-- A write keeps the canonical form. -/
theorem write_wfFrom {lo a : Nat} (b : Byte) (h : lo ≤ a) :
    ∀ {m : Memory}, Memory.wfFrom lo m = true → Memory.wfFrom lo (Memory.write m a b) = true
  | [], _ => cons_wfFrom h rfl
  | (a', b') :: m, hm => by
    have hm' := wfFrom_cons.1 hm
    rw [Memory.write]
    split
    · exact cons_wfFrom h (wfFrom_cons.2 ⟨by omega, hm'.2⟩)
    · split
      · rename_i _ heq
        exact cons_wfFrom h (heq ▸ hm'.2.2)
      · exact wfFrom_cons.2 ⟨hm'.1, hm'.2.1, write_wfFrom b (by omega) hm'.2.2⟩

theorem write_wf {m : Memory} (a : Nat) (b : Byte) (hm : m.wf = true) : (m.write a b).wf = true :=
  write_wfFrom b (Nat.zero_le a) hm

theorem writeList_wf : ∀ (bs : List Byte) {m : Memory} (a : Nat), m.wf = true → (m.writeList a bs).wf = true
  | [], _, _, hm => hm
  | b :: bs, _, a, hm => writeList_wf bs (a + 1) (write_wf a b hm)

theorem ofList_wfFrom : ∀ (bs : List Byte) (a : Nat), Memory.wfFrom a (Memory.ofList a bs) = true
  | [], _ => rfl
  | _ :: bs, a => cons_wfFrom (le_refl a) (ofList_wfFrom bs (a + 1))

theorem ofList_wf (bs : List Byte) : (Memory.ofList 0 bs).wf = true := ofList_wfFrom bs 0

theorem empty_wf : Memory.wf [] = true := rfl

theorem clearInput_wf (s : State) : s.clearInput.ibuf.wf = true := rfl

theorem setOutput_wf (bs : List Byte) (s : State) : (s.setOutput bs).obuf.wf = true := ofList_wf bs

theorem appendInput_wf (bs : List Byte) (s : State) (h : s.ibuf.wf = true) : (s.appendInput bs).ibuf.wf = true :=
  writeList_wf bs _ h

theorem resetWith_wf (cap : BitVec 16) : (State.resetWith cap).ibuf.wf = true ∧ (State.resetWith cap).obuf.wf = true :=
  ⟨rfl, rfl⟩

/-! ### The addresses listed -/

theorem below_cons {n a : Nat} {b : Byte} {m : Memory} :
    Memory.below n ((a, b) :: m) = true ↔ a < n ∧ Memory.below n m = true := by
  simp [Memory.below]

theorem below_mono {n n' : Nat} (h : n ≤ n') {m : Memory} (hm : Memory.below n m = true) : Memory.below n' m = true := by
  simp only [Memory.below, List.all_eq_true, decide_eq_true_eq] at hm ⊢
  exact fun c hc => lt_of_lt_of_le (hm c hc) h

theorem cons_below {n a : Nat} {b : Byte} {m : Memory} (h : a < n) (hm : Memory.below n m = true) :
    Memory.below n (Memory.cons a b m) = true := by
  unfold Memory.cons
  split
  · exact hm
  · exact below_cons.2 ⟨h, hm⟩

theorem write_below {n a : Nat} (b : Byte) (h : a < n) :
    ∀ {m : Memory}, Memory.below n m = true → Memory.below n (Memory.write m a b) = true
  | [], hm => cons_below h hm
  | (a', b') :: m, hm => by
    have hm' := below_cons.1 hm
    rw [Memory.write]
    split
    · exact cons_below h hm
    · split
      · exact cons_below h hm'.2
      · exact below_cons.2 ⟨hm'.1, write_below b h hm'.2⟩

theorem writeList_below : ∀ (bs : List Byte) {n : Nat} {m : Memory} (a : Nat), a + bs.length ≤ n →
    Memory.below n m = true → Memory.below n (m.writeList a bs) = true
  | [], _, _, _, _, hm => hm
  | b :: bs, n, m, a, h, hm => by
    rw [List.length_cons] at h
    exact writeList_below bs (a + 1) (by omega) (write_below b (by omega) hm)

theorem ofList_below : ∀ (bs : List Byte) {n : Nat} (a : Nat), a + bs.length ≤ n →
    Memory.below n (Memory.ofList a bs) = true
  | [], _, _, _ => rfl
  | _ :: bs, n, a, h => by
    rw [List.length_cons] at h
    exact cons_below (by omega) (ofList_below bs (a + 1) (by omega))

/-! ### Reads -/

theorem read_cons_self {lo a : Nat} {b : Byte} {m : Memory} (ha : a < lo) (hm : Memory.wfFrom lo m = true) :
    Memory.read (Memory.cons a b m) a = b := by
  unfold Memory.cons
  split
  · rename_i hb
    rw [read_of_lt_lo ha hm, hb]
  · rw [Memory.read, if_pos rfl]

theorem read_cons_of_ne {a a' : Nat} {b : Byte} {m : Memory} (h : a' ≠ a) :
    Memory.read (Memory.cons a b m) a' = Memory.read m a' := by
  unfold Memory.cons
  split
  · rfl
  · rw [Memory.read, if_neg h]

/-- A read after a write to the same address gives the byte written. -/
theorem read_write_self_from {lo : Nat} (a : Nat) (b : Byte) :
    ∀ {m : Memory}, Memory.wfFrom lo m = true → Memory.read (Memory.write m a b) a = b
  | [], _ => read_cons_self (Nat.lt_succ_self a) rfl
  | (a', b') :: m, hm => by
    have hm' := wfFrom_cons.1 hm
    rw [Memory.write]
    split
    · rename_i h
      exact read_cons_self h (wfFrom_cons.2 ⟨le_refl _, hm'.2⟩)
    · split
      · rename_i _ heq
        exact read_cons_self (show a < a' + 1 by omega) hm'.2.2
      · rename_i _ hne
        rw [Memory.read, if_neg hne]
        exact read_write_self_from a b hm'.2.2

theorem read_write_self {m : Memory} (a : Nat) (b : Byte) (hm : m.wf = true) : (m.write a b).read a = b :=
  read_write_self_from a b hm

/-- A write leaves every other address alone, in the canonical form or not. -/
theorem read_write_of_ne {a a' : Nat} (b : Byte) (h : a' ≠ a) :
    ∀ (m : Memory), Memory.read (Memory.write m a b) a' = Memory.read m a'
  | [] => read_cons_of_ne h
  | (a₁, b₁) :: m => by
    rw [Memory.write]
    split
    · exact read_cons_of_ne h
    · split
      · rename_i _ heq
        rw [read_cons_of_ne h, Memory.read, if_neg (heq ▸ h)]
      · rw [Memory.read, Memory.read]
        split
        · rfl
        · exact read_write_of_ne b h m

/-- A run of writes: the bytes written where they were written, everything else as before. -/
theorem read_writeList : ∀ (bs : List Byte) {m : Memory} (a x : Nat), m.wf = true →
    (m.writeList a bs).read x = if a ≤ x ∧ x < a + bs.length then bs.getD (x - a) 0 else m.read x
  | [], m, a, x, _ => by
    rw [if_neg (by simp)]
    rfl
  | b :: bs, m, a, x, hm => by
    rw [Memory.writeList, read_writeList bs (a + 1) x (write_wf a b hm)]
    rcases Nat.lt_trichotomy x a with h | h | h
    · rw [if_neg (by omega), if_neg (by omega), read_write_of_ne b (by omega)]
    · subst h
      rw [if_neg (by omega), if_pos (by simp), read_write_self x b hm]
      simp
    · by_cases hx : x < a + 1 + bs.length
      · rw [if_pos (by omega), if_pos (by simp only [List.length_cons]; omega)]
        obtain ⟨k, rfl⟩ : ∃ k, x = a + 1 + k := ⟨x - (a + 1), by omega⟩
        have h1 : a + 1 + k - (a + 1) = k := by omega
        have h2 : a + 1 + k - a = k + 1 := by omega
        rw [h1, h2, List.getD_cons_succ]
      · rw [if_neg (by omega), if_neg (by simp only [List.length_cons]; omega), read_write_of_ne b (by omega)]

/-- The bytes of a memory made from a sequence. -/
theorem read_ofList : ∀ (bs : List Byte) (a x : Nat),
    (Memory.ofList a bs).read x = if a ≤ x ∧ x < a + bs.length then bs.getD (x - a) 0 else unlistedByte
  | [], a, x => by
    rw [if_neg (by simp)]
    rfl
  | b :: bs, a, x => by
    rw [Memory.ofList]
    by_cases h : x = a
    · subst h
      rw [if_pos (by simp), read_cons_self (Nat.lt_succ_self x) (ofList_wfFrom bs (x + 1))]
      simp
    · rw [read_cons_of_ne h, read_ofList bs (a + 1) x]
      by_cases hx : a + 1 ≤ x ∧ x < a + 1 + bs.length
      · rw [if_pos hx, if_pos (by simp only [List.length_cons]; omega)]
        obtain ⟨k, rfl⟩ : ∃ k, x = a + 1 + k := ⟨x - (a + 1), by omega⟩
        have h1 : a + 1 + k - (a + 1) = k := by omega
        have h2 : a + 1 + k - a = k + 1 := by omega
        rw [h1, h2, List.getD_cons_succ]
      · rw [if_neg hx, if_neg (by simp only [List.length_cons]; omega)]

/-! ### Sequences -/

@[simp] theorem toList_length (m : Memory) (n : Nat) : (m.toList n).length = n := by simp [Memory.toList]

theorem toList_getElem (m : Memory) (n i : Nat) (h : i < (m.toList n).length) : (m.toList n)[i] = m.read i := by
  simp [Memory.toList]

@[simp] theorem input_length (s : State) : s.input.length = s.ilen.toNat := toList_length _ _
@[simp] theorem output_length (s : State) : s.output.length = s.olen.toNat := toList_length _ _

/-- The sequence a memory was made from is read back. -/
theorem toList_ofList (bs : List Byte) : (Memory.ofList 0 bs).toList bs.length = bs := by
  apply List.ext_getElem (by simp)
  intro i h₁ h₂
  rw [toList_getElem, read_ofList, if_pos (by omega)]
  simp [h₂]

/-- A sequence written at the end of the first `n` bytes is read back after them. -/
theorem toList_writeList {m : Memory} (n : Nat) (bs : List Byte) (hm : m.wf = true) :
    (m.writeList n bs).toList (n + bs.length) = m.toList n ++ bs := by
  apply List.ext_getElem (by simp)
  intro i h₁ h₂
  rw [toList_length] at h₁
  rw [toList_getElem, read_writeList bs n i hm]
  by_cases h : i < n
  · rw [if_neg (by omega), List.getElem_append_left (by simpa using h), toList_getElem]
  · rw [if_pos (by omega), List.getElem_append_right (by simpa using h)]
    simp only [toList_length, List.getD_eq_getElem?_getD]
    rw [List.getElem?_eq_getElem (by omega), Option.getD_some]

/-- OBUF read back after a result is written (R26); the length fits OLEN. -/
theorem setOutput_output (bs : List Byte) (s : State) (h : bs.length < 65536) : (s.setOutput bs).output = bs := by
  have hl : (BitVec.ofNat 16 bs.length).toNat = bs.length := by
    rw [BitVec.toNat_ofNat]; exact Nat.mod_eq_of_lt h
  show (Memory.ofList 0 bs).toList (BitVec.ofNat 16 bs.length).toNat = bs
  rw [hl, toList_ofList]

/-- IBUF read back after an append (R25); the new length fits ILEN. -/
theorem appendInput_input (bs : List Byte) (s : State) (hm : s.ibuf.wf = true) (h : s.ilen.toNat + bs.length < 65536) :
    (s.appendInput bs).input = s.input ++ bs := by
  have hl : (s.ilen + BitVec.ofNat 16 bs.length).toNat = s.ilen.toNat + bs.length := by
    rw [BitVec.toNat_add, BitVec.toNat_ofNat, Nat.add_mod_mod]
    exact Nat.mod_eq_of_lt h
  show (s.ibuf.writeList s.ilen.toNat bs).toList (s.ilen + BitVec.ofNat 16 bs.length).toNat = _
  rw [hl, toList_writeList _ _ hm]
  rfl

/-- Two canonical memories that read alike are the same list. -/
theorem wfFrom_ext {lo : Nat} : ∀ {m m' : Memory}, Memory.wfFrom lo m = true → Memory.wfFrom lo m' = true →
    (∀ a, lo ≤ a → m.read a = m'.read a) → m = m'
  | [], [], _, _, _ => rfl
  | [], (a, b) :: m', _, h', h => by
    have h' := wfFrom_cons.1 h'
    have := h a h'.1
    rw [Memory.read, Memory.read, if_pos rfl] at this
    exact absurd this.symm h'.2.1
  | (a, b) :: m, [], h₀, _, h => by
    have h₀ := wfFrom_cons.1 h₀
    have := h a h₀.1
    rw [Memory.read, Memory.read, if_pos rfl] at this
    exact absurd this h₀.2.1
  | (a, b) :: m, (a', b') :: m', h₀, h', h => by
    have k₀ := wfFrom_cons.1 h₀
    have k' := wfFrom_cons.1 h'
    rcases Nat.lt_trichotomy a a' with hlt | heq | hgt
    · have := h a k₀.1
      rw [Memory.read, if_pos rfl, Memory.read, if_neg (by omega), read_of_lt_lo (by omega) k'.2.2] at this
      exact absurd this k₀.2.1
    · subst heq
      have hb := h a k₀.1
      rw [Memory.read, if_pos rfl, Memory.read, if_pos rfl] at hb
      subst hb
      have : m = m' := wfFrom_ext k₀.2.2 k'.2.2 fun x hx => by
        have := h x (by omega)
        rwa [Memory.read, if_neg (by omega), Memory.read, if_neg (by omega)] at this
      rw [this]
    · have := h a' k'.1
      rw [Memory.read, if_neg (by omega), read_of_lt_lo (by omega) k₀.2.2, Memory.read, if_pos rfl] at this
      exact absurd this.symm k'.2.1

/-- In the canonical form equal contents are equal data. -/
theorem wf_ext {m m' : Memory} (h : m.wf = true) (h' : m'.wf = true) (hr : ∀ a, m.read a = m'.read a) : m = m' :=
  wfFrom_ext h h' fun a _ => hr a

end Sys2Proof.Machine
end

