-- ==== Sys2Proof/Laws/State.lean ====
section
/-! SUPPORT. One lemma per field per named update of the state. -/

namespace Sys2Proof.Machine

variable (s : State)

/-! ### respond -/

@[simp] theorem respond_key (cc : Byte) (val : Word) : (s.respond cc val).key = s.key := rfl
@[simp] theorem respond_rk (cc : Byte) (val : Word) : (s.respond cc val).rk = s.rk := rfl
@[simp] theorem respond_blk (cc : Byte) (val : Word) : (s.respond cc val).blk = s.blk := rfl
@[simp] theorem respond_cv (cc : Byte) (val : Word) : (s.respond cc val).cv = s.cv := rfl
@[simp] theorem respond_ibuf (cc : Byte) (val : Word) : (s.respond cc val).ibuf = s.ibuf := rfl
@[simp] theorem respond_ilen (cc : Byte) (val : Word) : (s.respond cc val).ilen = s.ilen := rfl
@[simp] theorem respond_obuf (cc : Byte) (val : Word) : (s.respond cc val).obuf = s.obuf := rfl
@[simp] theorem respond_olen (cc : Byte) (val : Word) : (s.respond cc val).olen = s.olen := rfl
@[simp] theorem respond_kvalid (cc : Byte) (val : Word) : (s.respond cc val).kvalid = s.kvalid := rfl
@[simp] theorem respond_err (cc : Byte) (val : Word) : (s.respond cc val).err = s.err := rfl
@[simp] theorem respond_errcmd (cc : Byte) (val : Word) : (s.respond cc val).errcmd = s.errcmd := rfl
@[simp] theorem respond_cap (cc : Byte) (val : Word) : (s.respond cc val).cap = s.cap := rfl
@[simp] theorem respond_port (cc : Byte) (val : Word) : (s.respond cc val).port = s.port.tail := rfl
@[simp] theorem respond_resps (cc : Byte) (val : Word) : (s.respond cc val).resps = s.resps ++ [⟨cc, val⟩] := rfl

/-! ### setOutput -/

@[simp] theorem setOutput_key (bs : List Byte) : (s.setOutput bs).key = s.key := rfl
@[simp] theorem setOutput_rk (bs : List Byte) : (s.setOutput bs).rk = s.rk := rfl
@[simp] theorem setOutput_blk (bs : List Byte) : (s.setOutput bs).blk = s.blk := rfl
@[simp] theorem setOutput_cv (bs : List Byte) : (s.setOutput bs).cv = s.cv := rfl
@[simp] theorem setOutput_ibuf (bs : List Byte) : (s.setOutput bs).ibuf = s.ibuf := rfl
@[simp] theorem setOutput_ilen (bs : List Byte) : (s.setOutput bs).ilen = s.ilen := rfl
@[simp] theorem setOutput_obuf (bs : List Byte) : (s.setOutput bs).obuf = Memory.ofList 0 bs := rfl
@[simp] theorem setOutput_olen (bs : List Byte) : (s.setOutput bs).olen = BitVec.ofNat 16 bs.length := rfl
@[simp] theorem setOutput_kvalid (bs : List Byte) : (s.setOutput bs).kvalid = s.kvalid := rfl
@[simp] theorem setOutput_err (bs : List Byte) : (s.setOutput bs).err = s.err := rfl
@[simp] theorem setOutput_errcmd (bs : List Byte) : (s.setOutput bs).errcmd = s.errcmd := rfl
@[simp] theorem setOutput_cap (bs : List Byte) : (s.setOutput bs).cap = s.cap := rfl
@[simp] theorem setOutput_port (bs : List Byte) : (s.setOutput bs).port = s.port := rfl
@[simp] theorem setOutput_resps (bs : List Byte) : (s.setOutput bs).resps = s.resps := rfl

/-! ### appendInput -/

@[simp] theorem appendInput_key (bs : List Byte) : (s.appendInput bs).key = s.key := rfl
@[simp] theorem appendInput_rk (bs : List Byte) : (s.appendInput bs).rk = s.rk := rfl
@[simp] theorem appendInput_blk (bs : List Byte) : (s.appendInput bs).blk = s.blk := rfl
@[simp] theorem appendInput_cv (bs : List Byte) : (s.appendInput bs).cv = s.cv := rfl
@[simp] theorem appendInput_ibuf (bs : List Byte) : (s.appendInput bs).ibuf = s.ibuf.writeList s.ilen.toNat bs := rfl
@[simp] theorem appendInput_ilen (bs : List Byte) : (s.appendInput bs).ilen = s.ilen + BitVec.ofNat 16 bs.length := rfl
@[simp] theorem appendInput_obuf (bs : List Byte) : (s.appendInput bs).obuf = s.obuf := rfl
@[simp] theorem appendInput_olen (bs : List Byte) : (s.appendInput bs).olen = s.olen := rfl
@[simp] theorem appendInput_kvalid (bs : List Byte) : (s.appendInput bs).kvalid = s.kvalid := rfl
@[simp] theorem appendInput_err (bs : List Byte) : (s.appendInput bs).err = s.err := rfl
@[simp] theorem appendInput_errcmd (bs : List Byte) : (s.appendInput bs).errcmd = s.errcmd := rfl
@[simp] theorem appendInput_cap (bs : List Byte) : (s.appendInput bs).cap = s.cap := rfl
@[simp] theorem appendInput_port (bs : List Byte) : (s.appendInput bs).port = s.port := rfl
@[simp] theorem appendInput_resps (bs : List Byte) : (s.appendInput bs).resps = s.resps := rfl

/-! ### clearInput -/

@[simp] theorem clearInput_key : (s.clearInput).key = s.key := rfl
@[simp] theorem clearInput_rk : (s.clearInput).rk = s.rk := rfl
@[simp] theorem clearInput_blk : (s.clearInput).blk = s.blk := rfl
@[simp] theorem clearInput_cv : (s.clearInput).cv = s.cv := rfl
@[simp] theorem clearInput_ibuf : (s.clearInput).ibuf = [] := rfl
@[simp] theorem clearInput_ilen : (s.clearInput).ilen = 0 := rfl
@[simp] theorem clearInput_obuf : (s.clearInput).obuf = s.obuf := rfl
@[simp] theorem clearInput_olen : (s.clearInput).olen = s.olen := rfl
@[simp] theorem clearInput_kvalid : (s.clearInput).kvalid = s.kvalid := rfl
@[simp] theorem clearInput_err : (s.clearInput).err = s.err := rfl
@[simp] theorem clearInput_errcmd : (s.clearInput).errcmd = s.errcmd := rfl
@[simp] theorem clearInput_cap : (s.clearInput).cap = s.cap := rfl
@[simp] theorem clearInput_port : (s.clearInput).port = s.port := rfl
@[simp] theorem clearInput_resps : (s.clearInput).resps = s.resps := rfl

/-! ### clearLatch -/

@[simp] theorem clearLatch_key : (s.clearLatch).key = s.key := rfl
@[simp] theorem clearLatch_rk : (s.clearLatch).rk = s.rk := rfl
@[simp] theorem clearLatch_blk : (s.clearLatch).blk = s.blk := rfl
@[simp] theorem clearLatch_cv : (s.clearLatch).cv = s.cv := rfl
@[simp] theorem clearLatch_ibuf : (s.clearLatch).ibuf = s.ibuf := rfl
@[simp] theorem clearLatch_ilen : (s.clearLatch).ilen = s.ilen := rfl
@[simp] theorem clearLatch_obuf : (s.clearLatch).obuf = s.obuf := rfl
@[simp] theorem clearLatch_olen : (s.clearLatch).olen = s.olen := rfl
@[simp] theorem clearLatch_kvalid : (s.clearLatch).kvalid = s.kvalid := rfl
@[simp] theorem clearLatch_err : (s.clearLatch).err = 0 := rfl
@[simp] theorem clearLatch_errcmd : (s.clearLatch).errcmd = 0 := rfl
@[simp] theorem clearLatch_cap : (s.clearLatch).cap = s.cap := rfl
@[simp] theorem clearLatch_port : (s.clearLatch).port = s.port := rfl
@[simp] theorem clearLatch_resps : (s.clearLatch).resps = s.resps := rfl

/-! ### resetCore -/

@[simp] theorem resetCore_key : (s.resetCore).key = Vector.replicate 32 0 := rfl
@[simp] theorem resetCore_rk : (s.resetCore).rk = Vector.replicate 240 0 := rfl
@[simp] theorem resetCore_blk : (s.resetCore).blk = Vector.replicate 16 0 := rfl
@[simp] theorem resetCore_cv : (s.resetCore).cv = Vector.replicate 16 0 := rfl
@[simp] theorem resetCore_ibuf : (s.resetCore).ibuf = [] := rfl
@[simp] theorem resetCore_ilen : (s.resetCore).ilen = 0 := rfl
@[simp] theorem resetCore_obuf : (s.resetCore).obuf = [] := rfl
@[simp] theorem resetCore_olen : (s.resetCore).olen = 0 := rfl
@[simp] theorem resetCore_kvalid : (s.resetCore).kvalid = false := rfl
@[simp] theorem resetCore_err : (s.resetCore).err = 0 := rfl
@[simp] theorem resetCore_errcmd : (s.resetCore).errcmd = 0 := rfl
@[simp] theorem resetCore_cap : (s.resetCore).cap = s.cap := rfl
@[simp] theorem resetCore_port : (s.resetCore).port = s.port := rfl
@[simp] theorem resetCore_resps : (s.resetCore).resps = s.resps := rfl

/-! ### withFetchWord -/

@[simp] theorem withFetchWord_key (nbits w : Nat) : (s.withFetchWord nbits w).key = s.key := rfl
@[simp] theorem withFetchWord_rk (nbits w : Nat) : (s.withFetchWord nbits w).rk = s.rk := rfl
@[simp] theorem withFetchWord_blk (nbits w : Nat) : (s.withFetchWord nbits w).blk = s.blk := rfl
@[simp] theorem withFetchWord_cv (nbits w : Nat) : (s.withFetchWord nbits w).cv = s.cv := rfl
@[simp] theorem withFetchWord_ibuf (nbits w : Nat) : (s.withFetchWord nbits w).ibuf = s.ibuf := rfl
@[simp] theorem withFetchWord_ilen (nbits w : Nat) : (s.withFetchWord nbits w).ilen = s.ilen := rfl
@[simp] theorem withFetchWord_obuf (nbits w : Nat) : (s.withFetchWord nbits w).obuf = s.obuf := rfl
@[simp] theorem withFetchWord_olen (nbits w : Nat) : (s.withFetchWord nbits w).olen = s.olen := rfl
@[simp] theorem withFetchWord_kvalid (nbits w : Nat) : (s.withFetchWord nbits w).kvalid = s.kvalid := rfl
@[simp] theorem withFetchWord_err (nbits w : Nat) : (s.withFetchWord nbits w).err = s.err := rfl
@[simp] theorem withFetchWord_errcmd (nbits w : Nat) : (s.withFetchWord nbits w).errcmd = s.errcmd := rfl
@[simp] theorem withFetchWord_cap (nbits w : Nat) : (s.withFetchWord nbits w).cap = s.cap := rfl
@[simp] theorem withFetchWord_port (nbits w : Nat) : (s.withFetchWord nbits w).port = .command (BitVec.ofNat 32 (w % 2 ^ nbits)) :: s.port := rfl
@[simp] theorem withFetchWord_resps (nbits w : Nat) : (s.withFetchWord nbits w).resps = s.resps := rfl

/-! ### latchError -/

/-- With no error latched the code and the command word are saved (R28, R259). -/
theorem latchError_of_clear (e : ErrorCode) (w : Word) (h : s.err = 0) :
    s.latchError e w = { s with err := e.code, errcmd := w } := if_pos h

/-- With an error latched nothing changes: the first error sticks (R262). -/
theorem latchError_of_latched (e : ErrorCode) (w : Word) (h : s.err ≠ 0) : s.latchError e w = s := if_neg h

@[simp] theorem latchError_key (e : ErrorCode) (w : Word) : (s.latchError e w).key = s.key := by
  unfold State.latchError; split <;> rfl
@[simp] theorem latchError_rk (e : ErrorCode) (w : Word) : (s.latchError e w).rk = s.rk := by
  unfold State.latchError; split <;> rfl
@[simp] theorem latchError_blk (e : ErrorCode) (w : Word) : (s.latchError e w).blk = s.blk := by
  unfold State.latchError; split <;> rfl
@[simp] theorem latchError_cv (e : ErrorCode) (w : Word) : (s.latchError e w).cv = s.cv := by
  unfold State.latchError; split <;> rfl
@[simp] theorem latchError_ibuf (e : ErrorCode) (w : Word) : (s.latchError e w).ibuf = s.ibuf := by
  unfold State.latchError; split <;> rfl
@[simp] theorem latchError_ilen (e : ErrorCode) (w : Word) : (s.latchError e w).ilen = s.ilen := by
  unfold State.latchError; split <;> rfl
@[simp] theorem latchError_obuf (e : ErrorCode) (w : Word) : (s.latchError e w).obuf = s.obuf := by
  unfold State.latchError; split <;> rfl
@[simp] theorem latchError_olen (e : ErrorCode) (w : Word) : (s.latchError e w).olen = s.olen := by
  unfold State.latchError; split <;> rfl
@[simp] theorem latchError_kvalid (e : ErrorCode) (w : Word) : (s.latchError e w).kvalid = s.kvalid := by
  unfold State.latchError; split <;> rfl
@[simp] theorem latchError_cap (e : ErrorCode) (w : Word) : (s.latchError e w).cap = s.cap := by
  unfold State.latchError; split <;> rfl
@[simp] theorem latchError_port (e : ErrorCode) (w : Word) : (s.latchError e w).port = s.port := by
  unfold State.latchError; split <;> rfl
@[simp] theorem latchError_resps (e : ErrorCode) (w : Word) : (s.latchError e w).resps = s.resps := by
  unfold State.latchError; split <;> rfl

@[simp] theorem latchError_err (e : ErrorCode) (w : Word) :
    (s.latchError e w).err = if s.err = 0 then e.code else s.err := by
  unfold State.latchError; split <;> rfl

@[simp] theorem latchError_errcmd (e : ErrorCode) (w : Word) :
    (s.latchError e w).errcmd = if s.err = 0 then w else s.errcmd := by
  unfold State.latchError; split <;> rfl

/-! ### The valid contents -/

@[simp] theorem respond_input (cc : Byte) (val : Word) : (s.respond cc val).input = s.input := rfl
@[simp] theorem respond_output (cc : Byte) (val : Word) : (s.respond cc val).output = s.output := rfl
@[simp] theorem setOutput_input (bs : List Byte) : (s.setOutput bs).input = s.input := rfl
@[simp] theorem appendInput_output (bs : List Byte) : (s.appendInput bs).output = s.output := rfl
@[simp] theorem clearInput_input : s.clearInput.input = [] := rfl
@[simp] theorem clearInput_output : s.clearInput.output = s.output := rfl

/-- An error leaves all data and both buffers alone (R260). -/
theorem latchError_sameData (e : ErrorCode) (w : Word) : SameData s (s.latchError e w) := by
  constructor <;> simp

/-- A response leaves all data and both buffers alone. -/
theorem respond_sameData (cc : Byte) (val : Word) : SameData s (s.respond cc val) := by
  constructor <;> rfl

end Sys2Proof.Machine
end

