-- ==== Sys2Proof/Laws/Ops.lean ====
section
/-! SUPPORT. What each shared operation can do, said once, for proofs to cite instead of unfolding it. -/

namespace Sys2Proof.Machine

variable {s t : State} {k : Result} {w : Word}

/-! ### Outcomes -/

@[simp] theorem complete_eq_next (val : Word) : complete val s = .next t ↔ t = s.respond ccOk val := by
  simp [complete, eq_comm]

@[simp] theorem raise_eq_next (e : ErrorCode) : raise e w s = .next t ↔ t = (s.latchError e w).respond e.cc 0 := by
  simp [raise, eq_comm]

@[simp] theorem drop_eq_next : drop s = .next t ↔ t = s.respond ccDropped 0 := by
  simp [drop, eq_comm]

theorem idle_eq : idle s = .next s := rfl

theorem hardwareReset_eq : hardwareReset s = .next { s.resetCore with port := s.port.tail } := rfl

/-! ### The checks (R258) -/

theorem unlessLatched_of_clear (h : s.err = 0) : unlessLatched s k = k := if_pos h

theorem unlessLatched_of_latched (h : s.err ≠ 0) : unlessLatched s k = .next (s.respond ccDropped 0) := if_neg h

/-- If it answers a next state, either no error is latched and the command did, or the command was dropped (R257). -/
theorem unlessLatched_cases (h : unlessLatched s k = .next t) :
    (s.err = 0 ∧ k = .next t) ∨ (s.err ≠ 0 ∧ t = s.respond ccDropped 0) := by
  by_cases he : s.err = 0
  · rw [unlessLatched_of_clear he] at h
    exact .inl ⟨he, h⟩
  · rw [unlessLatched_of_latched he] at h
    exact .inr ⟨he, by cases h; rfl⟩

theorem requireKey_of_valid (h : s.kvalid = true) : requireKey w s k = k := if_pos h

theorem requireKey_of_invalid (h : s.kvalid = false) : requireKey w s k = raise .noKeySchedule w s := by
  simp [requireKey, h]

/-- If it answers a next state, either KVALID is 1 and the command did, or NoKeySchedule was raised (R253). -/
theorem requireKey_cases (h : requireKey w s k = .next t) :
    (s.kvalid = true ∧ k = .next t) ∨
      (s.kvalid = false ∧ t = (s.latchError .noKeySchedule w).respond ErrorCode.noKeySchedule.cc 0) := by
  cases hk : s.kvalid
  · rw [requireKey_of_invalid hk, raise_eq_next] at h
    exact .inr ⟨rfl, h⟩
  · rw [requireKey_of_valid hk] at h
    exact .inl ⟨rfl, h⟩

theorem requireRoom_of_le {n : Nat} (h : n ≤ s.cap.toNat) : requireRoom n w s k = k := if_neg (by omega)

theorem requireRoom_of_gt {n : Nat} (h : s.cap.toNat < n) : requireRoom n w s k = raise .overflow w s := if_pos h

/-- If it answers a next state, either the result fits and the command did, or Overflow was raised (R256). -/
theorem requireRoom_cases {n : Nat} (h : requireRoom n w s k = .next t) :
    (n ≤ s.cap.toNat ∧ k = .next t) ∨
      (s.cap.toNat < n ∧ t = (s.latchError .overflow w).respond ErrorCode.overflow.cc 0) := by
  by_cases hn : s.cap.toNat < n
  · rw [requireRoom_of_gt hn, raise_eq_next] at h
    exact .inr ⟨hn, h⟩
  · rw [requireRoom_of_le (by omega)] at h
    exact .inl ⟨by omega, h⟩

/-! ### Operands (R96, R252) -/

theorem indexBelow_of_lt {n m : Nat} {a : BitVec m} (h : a.toNat < n) : indexBelow n a = some ⟨a.toNat, h⟩ := dif_pos h

theorem indexBelow_of_ge {n m : Nat} {a : BitVec m} (h : n ≤ a.toNat) : indexBelow n a = none := dif_neg (by omega)

theorem withIndex_of_lt {n m : Nat} {a : BitVec m} {f : Fin n → Result} (h : a.toNat < n) :
    withIndex n a w s f = f ⟨a.toNat, h⟩ := by
  rw [withIndex, indexBelow_of_lt h]

theorem withIndex_of_ge {n m : Nat} {a : BitVec m} {f : Fin n → Result} (h : n ≤ a.toNat) :
    withIndex n a w s f = raise .badAddress w s := by
  rw [withIndex, indexBelow_of_ge h]

/-- If it answers a next state, either the operand is in range and the command did, or BadAddress was raised (R252). -/
theorem withIndex_cases {n m : Nat} {a : BitVec m} {f : Fin n → Result} (h : withIndex n a w s f = .next t) :
    (∃ hlt : a.toNat < n, f ⟨a.toNat, hlt⟩ = .next t) ∨
      (n ≤ a.toNat ∧ t = (s.latchError .badAddress w).respond ErrorCode.badAddress.cc 0) := by
  by_cases hn : a.toNat < n
  · rw [withIndex_of_lt hn] at h
    exact .inl ⟨hn, h⟩
  · rw [withIndex_of_ge (by omega), raise_eq_next] at h
    exact .inr ⟨by omega, h⟩

/-- Every control register number below 6 names a register. -/
theorem ctrlReg_eq_none_iff (n : Byte) : ctrlReg n = none ↔ 5 < n.toNat := by
  unfold ctrlReg
  split <;> simp_all
  omega

/-! ### Rejected words (R94, R95, R101) -/

/-- If it answers a next state, either the word was dropped or IllegalCommand was raised (R251, R257). -/
theorem rejectWord_cases (h : rejectWord w s = .next t) :
    (s.err ≠ 0 ∧ 4 ≤ (opcodeField w).toNat ∧ t = s.respond ccDropped 0) ∨
      ((s.err = 0 ∨ (opcodeField w).toNat < 4) ∧
        t = (s.latchError .illegalCommand w).respond ErrorCode.illegalCommand.cc 0) := by
  unfold rejectWord at h
  split at h
  · rename_i hop
    rcases unlessLatched_cases h with ⟨he, hr⟩ | ⟨he, ht⟩
    · exact .inr ⟨.inl he, (raise_eq_next _).1 hr⟩
    · exact .inl ⟨he, hop, ht⟩
  · exact .inr ⟨.inr (by omega), (raise_eq_next _).1 h⟩

/-! ### The step -/

/-- With a command word at the head of the port the step decodes it. -/
theorem step_of_command {rest : List HostEvent} (h : s.port = .command w :: rest) :
    step s = match decode w with
      | .ok i => exec i s
      | .error _ => rejectWord w s := by
  cases s
  subst h
  rfl

end Sys2Proof.Machine
end

