-- ==== Sys2Proof/Laws/PerInstr.lean ====
section
/-!
SUPPORT. The family EncodingRow: the word of a command matches the row of R93 that has its mnemonic (spec/30_encoding.md).
One lemma per constructor of Instr.
-/

namespace Sys2Proof.Laws

/-- Masking works field by field. -/
theorem append_and_append {m n : Nat} (x x' : BitVec m) (y y' : BitVec n) :
    (x ++ y) &&& (x' ++ y') = (x &&& x') ++ (y &&& y') := by
  ext i h
  simp only [BitVec.getElem_and, BitVec.getElem_append]
  split <;> rfl

theorem byte_and_ff (x : Byte) : x &&& 0xFF = x := by
  have h : (0xFF : Byte) = BitVec.allOnes 8 := by decide
  rw [h, BitVec.and_allOnes]

theorem and_zero_field {n : Nat} (x : BitVec n) : x &&& (0 : BitVec n) = 0 := by simp

theorem zero_field_and {n : Nat} (x : BitVec n) : (0 : BitVec n) &&& x = 0 := by simp

/-- The mask of the format I keeps the opcode and clears imm8 (R91). -/
theorem encodeI_and (op n : Byte) : encodeI op n &&& 0xFFFFFF00 = op ++ (0 : BitVec 16) ++ (0 : BitVec 8) := by
  have h : (0xFFFFFF00 : Word) = (0xFF : BitVec 8) ++ (0xFFFF : BitVec 16) ++ (0 : BitVec 8) := by decide
  rw [encodeI, h, append_and_append, append_and_append, byte_and_ff, and_zero_field, zero_field_and]

/-- The mask of the format A keeps the opcode and clears addr16 (R91). -/
theorem encodeA_and (op : Byte) (a : BitVec 16) :
    encodeA op a &&& 0xFF0000FF = op ++ (0 : BitVec 16) ++ (0 : BitVec 8) := by
  have h : (0xFF0000FF : Word) = (0xFF : BitVec 8) ++ (0 : BitVec 16) ++ (0xFF : BitVec 8) := by decide
  rw [encodeA, h, append_and_append, append_and_append, byte_and_ff, and_zero_field, zero_field_and]

/-- The mask of the format AI keeps the opcode and clears addr16 and imm8 (R91). -/
theorem encodeAI_and (op : Byte) (a : BitVec 16) (b : Byte) :
    encodeAI op a b &&& 0xFF000000 = op ++ (0 : BitVec 16) ++ (0 : BitVec 8) := by
  have h : (0xFF000000 : Word) = (0xFF : BitVec 8) ++ (0 : BitVec 16) ++ (0 : BitVec 8) := by decide
  rw [encodeAI, h, append_and_append, append_and_append, byte_and_ff, and_zero_field, and_zero_field]

/-- The mask of the format G keeps the opcode and clears a and b (R91). -/
theorem encodeG_and (op a b : Byte) :
    encodeG op a b &&& 0xFFFF0000 = op ++ (0 : BitVec 8) ++ (0 : BitVec 8) ++ (0 : BitVec 8) := by
  have h : (0xFFFF0000 : Word) = (0xFF : BitVec 8) ++ (0xFF : BitVec 8) ++ (0 : BitVec 8) ++ (0 : BitVec 8) := by decide
  rw [encodeG, h, append_and_append, append_and_append, append_and_append, byte_and_ff, byte_and_ff, and_zero_field,
    and_zero_field]

end Sys2Proof.Laws

namespace Sys2Proof.Laws.EncodingRow

/-- Some row of R93 with the command's mnemonic matches the command's word. -/
def Statement (i : Instr) : Prop :=
  ∃ r ∈ opcodeTable, r.mnemonic = i.mnemonic ∧ encode i &&& r.mask = r.pattern

theorem nop : Statement .nop :=
  ⟨⟨"NOP", 0x00000000, 0xFFFFFFFF⟩, by decide, rfl, by decide⟩

theorem sreset : Statement .sreset :=
  ⟨⟨"SRESET", 0x01000000, 0xFFFFFFFF⟩, by decide, rfl, by decide⟩

theorem clrerr : Statement .clrerr :=
  ⟨⟨"CLRERR", 0x02000000, 0xFFFFFFFF⟩, by decide, rfl, by decide⟩

theorem rdreg (n : Byte) : Statement (.rdreg n) :=
  ⟨⟨"RDREG", 0x03000000, 0xFFFFFF00⟩, by decide, rfl, (encodeI_and 0x03 n).trans (by decide)⟩

theorem wrkey (a : BitVec 16) (b : Byte) : Statement (.wrkey a b) :=
  ⟨⟨"WRKEY", 0x10000000, 0xFF000000⟩, by decide, rfl, (encodeAI_and 0x10 a b).trans (by decide)⟩

theorem rdkey (a : BitVec 16) : Statement (.rdkey a) :=
  ⟨⟨"RDKEY", 0x11000000, 0xFF0000FF⟩, by decide, rfl, (encodeA_and 0x11 a).trans (by decide)⟩

theorem rdrk (a : BitVec 16) : Statement (.rdrk a) :=
  ⟨⟨"RDRK", 0x12000000, 0xFF0000FF⟩, by decide, rfl, (encodeA_and 0x12 a).trans (by decide)⟩

theorem wrblk (a : BitVec 16) (b : Byte) : Statement (.wrblk a b) :=
  ⟨⟨"WRBLK", 0x14000000, 0xFF000000⟩, by decide, rfl, (encodeAI_and 0x14 a b).trans (by decide)⟩

theorem rdblk (a : BitVec 16) : Statement (.rdblk a) :=
  ⟨⟨"RDBLK", 0x15000000, 0xFF0000FF⟩, by decide, rfl, (encodeA_and 0x15 a).trans (by decide)⟩

theorem wrcv (a : BitVec 16) (b : Byte) : Statement (.wrcv a b) :=
  ⟨⟨"WRCV", 0x16000000, 0xFF000000⟩, by decide, rfl, (encodeAI_and 0x16 a b).trans (by decide)⟩

theorem rdcv (a : BitVec 16) : Statement (.rdcv a) :=
  ⟨⟨"RDCV", 0x17000000, 0xFF0000FF⟩, by decide, rfl, (encodeA_and 0x17 a).trans (by decide)⟩

theorem pushi (n : Byte) : Statement (.pushi n) :=
  ⟨⟨"PUSHI", 0x18000000, 0xFFFFFF00⟩, by decide, rfl, (encodeI_and 0x18 n).trans (by decide)⟩

theorem clri : Statement .clri :=
  ⟨⟨"CLRI", 0x19000000, 0xFFFFFFFF⟩, by decide, rfl, by decide⟩

theorem rdi (a : BitVec 16) : Statement (.rdi a) :=
  ⟨⟨"RDI", 0x1A000000, 0xFF0000FF⟩, by decide, rfl, (encodeA_and 0x1A a).trans (by decide)⟩

theorem rdo (a : BitVec 16) : Statement (.rdo a) :=
  ⟨⟨"RDO", 0x1B000000, 0xFF0000FF⟩, by decide, rfl, (encodeA_and 0x1B a).trans (by decide)⟩

theorem appo (a : BitVec 16) : Statement (.appo a) :=
  ⟨⟨"APPO", 0x1C000000, 0xFF0000FF⟩, by decide, rfl, (encodeA_and 0x1C a).trans (by decide)⟩

theorem gfmul (a b : Byte) : Statement (.gfmul a b) :=
  ⟨⟨"GFMUL", 0x20000000, 0xFFFF0000⟩, by decide, rfl, (encodeG_and 0x20 a b).trans (by decide)⟩

theorem subb : Statement .subb :=
  ⟨⟨"SUBB", 0x21000000, 0xFFFFFFFF⟩, by decide, rfl, by decide⟩

theorem isubb : Statement .isubb :=
  ⟨⟨"ISUBB", 0x22000000, 0xFFFFFFFF⟩, by decide, rfl, by decide⟩

theorem shrow : Statement .shrow :=
  ⟨⟨"SHROW", 0x23000000, 0xFFFFFFFF⟩, by decide, rfl, by decide⟩

theorem ishrow : Statement .ishrow :=
  ⟨⟨"ISHROW", 0x24000000, 0xFFFFFFFF⟩, by decide, rfl, by decide⟩

theorem mixc : Statement .mixc :=
  ⟨⟨"MIXC", 0x25000000, 0xFFFFFFFF⟩, by decide, rfl, by decide⟩

theorem imixc : Statement .imixc :=
  ⟨⟨"IMIXC", 0x26000000, 0xFFFFFFFF⟩, by decide, rfl, by decide⟩

theorem ark (n : Byte) : Statement (.ark n) :=
  ⟨⟨"ARK", 0x27000000, 0xFFFFFF00⟩, by decide, rfl, (encodeI_and 0x27 n).trans (by decide)⟩

theorem keyexp : Statement .keyexp :=
  ⟨⟨"KEYEXP", 0x28000000, 0xFFFFFFFF⟩, by decide, rfl, by decide⟩

theorem encblk : Statement .encblk :=
  ⟨⟨"ENCBLK", 0x29000000, 0xFFFFFFFF⟩, by decide, rfl, by decide⟩

theorem decblk : Statement .decblk :=
  ⟨⟨"DECBLK", 0x2A000000, 0xFFFFFFFF⟩, by decide, rfl, by decide⟩

theorem pad : Statement .pad :=
  ⟨⟨"PAD", 0x30000000, 0xFFFFFFFF⟩, by decide, rfl, by decide⟩

theorem unpad : Statement .unpad :=
  ⟨⟨"UNPAD", 0x31000000, 0xFFFFFFFF⟩, by decide, rfl, by decide⟩

theorem cbcenc : Statement .cbcenc :=
  ⟨⟨"CBCENC", 0x32000000, 0xFFFFFFFF⟩, by decide, rfl, by decide⟩

theorem cbcdec : Statement .cbcdec :=
  ⟨⟨"CBCDEC", 0x33000000, 0xFFFFFFFF⟩, by decide, rfl, by decide⟩

theorem b64enc : Statement .b64enc :=
  ⟨⟨"B64ENC", 0x34000000, 0xFFFFFFFF⟩, by decide, rfl, by decide⟩

theorem b64dec : Statement .b64dec :=
  ⟨⟨"B64DEC", 0x35000000, 0xFFFFFFFF⟩, by decide, rfl, by decide⟩

end Sys2Proof.Laws.EncodingRow
end

