-- ==== Sys2Proof/WellFormed.lean ====
section
/-!
DEFINITION. Static well-formedness of a command: its operand is inside the range that spec/30_encoding.md R96 gives
whatever the state. An ill-formed command still encodes, decodes and executes: it raises BadAddress (R96, R252), so no
statement about execution assumes well-formedness (log 13). The ranges that depend on ILEN and OLEN (RDI, RDO, APPO)
are checked when the command executes. This file is written from the table of R96, apart from the checks the meanings
make (Machine/Operands.lean).
-/

namespace Sys2Proof

/-- RDREG: register number 0 to 5. -/
def regNumberWf (n : Byte) : Bool := n.toNat ≤ 5

/-- WRKEY, RDKEY: index 0 to 31. -/
def keyIndexWf (a : BitVec 16) : Bool := a.toNat ≤ 31

/-- RDRK: index 0 to 239. -/
def rkIndexWf (a : BitVec 16) : Bool := a.toNat ≤ 239

/-- WRBLK, RDBLK, WRCV, RDCV: index 0 to 15. -/
def blockIndexWf (a : BitVec 16) : Bool := a.toNat ≤ 15

/-- ARK: round number 0 to 14. -/
def roundNumberWf (r : Byte) : Bool := r.toNat ≤ 14

/-- The operand is in the range that holds in every state (R96). -/
def Instr.wellFormed : Instr → Bool
  | .rdreg n => regNumberWf n
  | .wrkey a _ => keyIndexWf a
  | .rdkey a => keyIndexWf a
  | .rdrk a => rkIndexWf a
  | .wrblk a _ => blockIndexWf a
  | .rdblk a => blockIndexWf a
  | .wrcv a _ => blockIndexWf a
  | .rdcv a => blockIndexWf a
  | .ark r => roundNumberWf r
  | .nop | .sreset | .clrerr | .pushi _ | .clri | .rdi _ | .rdo _ | .appo _ | .gfmul _ _ | .subb | .isubb | .shrow
  | .ishrow | .mixc | .imixc | .keyexp | .encblk | .decblk | .pad | .unpad | .cbcenc | .cbcdec | .b64enc | .b64dec => true

end Sys2Proof
end

