-- ==== Sys2Proof/Tests/Slice0.lean ====
section
/-!
SUPPORT. The model's own tests. Expected results come from spec/: the encodings of 30_encoding.md (R93, R99) and the
vectors V10 to V72 of 95_test_vectors.md, named in each test. Each `test_witness_…` meets all hypotheses of the obligation
of that name, at the ends of the ranges its clauses speak of.
-/

namespace Sys2Proof.Tests

open Sys2Proof.Machine

set_option Elab.async false

/-! ### Helpers -/

/-- The state a command leaves; the state after reset if it does not answer a next state. -/
def after : Result → State
  | .next t => t
  | .fault _ => .reset
  | .refused _ => .reset

/-- The response of a command issued after reset or in a state built here: the last one returned. -/
def reply (r : Result) : Option Response := (after r).resps.getLast?

/-- 16 bytes from their hexadecimal digits, the first byte leftmost. -/
def block (x : BitVec 128) : Block := tabulate fun n => x.extractLsb' (8 * (15 - n.val)) 8

/-- After reset, IBUF holding `bs`. -/
def inputs (bs : List Byte) : State := State.reset.appendInput bs

/-- After reset, OBUF holding `bs`. -/
def outputs (bs : List Byte) : State := State.reset.setOutput bs

/-- After UNPAD of an empty IBUF: PaddingError latched (V68, step 1). -/
def latched : State := { State.reset with err := 5, errcmd := 0x31000000 }

/-- After KEYEXP of the all-zero key (V32). -/
def keyed : State := { State.reset with rk := expandKey State.reset.key, kvalid := true }

/-- A core of the least capacity, 64 bytes, with `n` bytes in IBUF. -/
def narrow (n : Nat) : State := (State.resetWith 64).appendInput (List.replicate n 1)

/-- `s` with the word `w` issued next. -/
def issued (w : Nat) (s : State) : State := s.withFetchWord 32 w

/-! ### Words of R93 and R99, written out from the formats of R91 -/

theorem test_decode_nop : decodeTableWord 32 0x00000000 = some .nop := by decide
theorem test_decode_sreset : decodeTableWord 32 0x01000000 = some .sreset := by decide
theorem test_decode_clrerr : decodeTableWord 32 0x02000000 = some .clrerr := by decide
theorem test_decode_rdreg : decodeTableWord 32 0x03000005 = some (.rdreg 5) := by decide
theorem test_decode_wrkey : decodeTableWord 32 0x1000057F = some (.wrkey 5 0x7F) := by decide
theorem test_decode_rdkey : decodeTableWord 32 0x11000600 = some (.rdkey 6) := by decide
theorem test_decode_rdrk : decodeTableWord 32 0x1200EF00 = some (.rdrk 239) := by decide
theorem test_decode_wrblk : decodeTableWord 32 0x14000FFF = some (.wrblk 15 0xFF) := by decide
theorem test_decode_rdblk : decodeTableWord 32 0x15000F00 = some (.rdblk 15) := by decide
theorem test_decode_wrcv : decodeTableWord 32 0x160000A5 = some (.wrcv 0 0xA5) := by decide
theorem test_decode_rdcv : decodeTableWord 32 0x17000A00 = some (.rdcv 10) := by decide
theorem test_decode_pushi : decodeTableWord 32 0x18000041 = some (.pushi 0x41) := by decide
theorem test_decode_clri : decodeTableWord 32 0x19000000 = some .clri := by decide
theorem test_decode_rdi : decodeTableWord 32 0x1AFFFF00 = some (.rdi 65535) := by decide
theorem test_decode_rdo : decodeTableWord 32 0x1B002B00 = some (.rdo 43) := by decide
theorem test_decode_appo : decodeTableWord 32 0x1C001000 = some (.appo 16) := by decide
theorem test_decode_gfmul : decodeTableWord 32 0x20005783 = some (.gfmul 0x57 0x83) := by decide
theorem test_decode_subb : decodeTableWord 32 0x21000000 = some .subb := by decide
theorem test_decode_isubb : decodeTableWord 32 0x22000000 = some .isubb := by decide
theorem test_decode_shrow : decodeTableWord 32 0x23000000 = some .shrow := by decide
theorem test_decode_ishrow : decodeTableWord 32 0x24000000 = some .ishrow := by decide
theorem test_decode_mixc : decodeTableWord 32 0x25000000 = some .mixc := by decide
theorem test_decode_imixc : decodeTableWord 32 0x26000000 = some .imixc := by decide
theorem test_decode_ark : decodeTableWord 32 0x2700000E = some (.ark 14) := by decide
theorem test_decode_keyexp : decodeTableWord 32 0x28000000 = some .keyexp := by decide
theorem test_decode_encblk : decodeTableWord 32 0x29000000 = some .encblk := by decide
theorem test_decode_decblk : decodeTableWord 32 0x2A000000 = some .decblk := by decide
theorem test_decode_pad : decodeTableWord 32 0x30000000 = some .pad := by decide
theorem test_decode_unpad : decodeTableWord 32 0x31000000 = some .unpad := by decide
theorem test_decode_cbcenc : decodeTableWord 32 0x32000000 = some .cbcenc := by decide
theorem test_decode_cbcdec : decodeTableWord 32 0x33000000 = some .cbcdec := by decide
theorem test_decode_b64enc : decodeTableWord 32 0x34000000 = some .b64enc := by decide
theorem test_decode_b64dec : decodeTableWord 32 0x35000000 = some .b64dec := by decide

/-- V66: every word of the vector is refused by the decoder. -/
theorem test_decode_refuses_illegal_words :
    [0x00000001, 0x01000001, 0x02000001, 0x03000105, 0x04000000, 0x0F000000, 0x13000000, 0x11000001, 0x18000141,
      0x19000100, 0x1C0000FF, 0x1D000000, 0x20015783, 0x27000100, 0x28800000, 0x2B000000, 0x2F000000, 0x36000000,
      0x80000000, 0xFF000000, 0xFFFFFFFF].all (fun w => (decodeTableWord 32 w).isNone) = true := by decide

/-! ### Well-formedness: one ill-formed command for each check (V67, R96) -/

theorem test_wf_refuses_register_number : Instr.wellFormed (.rdreg 6) = false := by decide
theorem test_wf_refuses_key_write_index : Instr.wellFormed (.wrkey 32 0) = false := by decide
theorem test_wf_refuses_key_read_index : Instr.wellFormed (.rdkey 32) = false := by decide
theorem test_wf_refuses_schedule_index : Instr.wellFormed (.rdrk 240) = false := by decide
theorem test_wf_refuses_block_write_index : Instr.wellFormed (.wrblk 16 0) = false := by decide
theorem test_wf_refuses_block_read_index : Instr.wellFormed (.rdblk 16) = false := by decide
theorem test_wf_refuses_chain_write_index : Instr.wellFormed (.wrcv 16 0) = false := by decide
theorem test_wf_refuses_chain_read_index : Instr.wellFormed (.rdcv 16) = false := by decide
theorem test_wf_refuses_round_number : Instr.wellFormed (.ark 15) = false := by decide

/-- The last operand of each range is well-formed (V67: in range and legal). -/
theorem test_wf_accepts_ends_of_ranges :
    [Instr.rdreg 5, .wrkey 31 0xFF, .rdkey 31, .rdrk 239, .wrblk 15 0, .rdblk 15, .wrcv 15 0, .rdcv 15, .ark 14].all
      Instr.wellFormed = true := by decide

/-! ### One step of each command -/

/-- V68, step 8. -/
theorem test_nop_while_latched :
    reply (exec .nop latched) = some ⟨0, 0⟩ ∧ (after (exec .nop latched)).err = 5 := by decide +kernel

/-- V68, step 22: SRESET is exempt and clears the latch; V71: it clears KVALID. -/
theorem test_sreset : (after (exec .sreset latched)).err = 0 ∧ (after (exec .sreset keyed)).kvalid = false ∧
    reply (exec .sreset latched) = some ⟨0, 0⟩ := by decide +kernel

/-- V68, step 14. -/
theorem test_clrerr : (after (exec .clrerr latched)).err = 0 ∧ (after (exec .clrerr latched)).errcmd = 0 ∧
    reply (exec .clrerr latched) = some ⟨0, 0⟩ := by decide +kernel

/-- V70: the six control registers of a fresh core. -/
theorem test_rdreg_after_reset : [0, 1, 2, 3, 4, 5].map (fun n => reply (exec (.rdreg n) State.reset)) =
    [0x43564145, 0, 0, 0, 0, 0x1000].map (fun v => some ⟨0, v⟩) := by decide +kernel

/-- V68, steps 2, 3 and 9. -/
theorem test_rdreg_while_latched : [1, 2, 9].map (fun n => reply (exec (.rdreg n) latched)) =
    [some ⟨0, 5⟩, some ⟨0, 0x31000000⟩, some ⟨2, 0⟩] := by decide +kernel

/-- V65 and V34: the byte is written and KVALID cleared. -/
theorem test_wrkey : (after (exec (.wrkey 5 0x7F) keyed)).key[5] = 0x7F ∧
    (after (exec (.wrkey 5 0x7F) keyed)).kvalid = false := by decide +kernel

/-- V67, V71: WRKEY 32 raises BadAddress and leaves KVALID. -/
theorem test_wrkey_out_of_range : reply (exec (.wrkey 32 0) keyed) = some ⟨2, 0⟩ ∧
    (after (exec (.wrkey 32 0) keyed)).kvalid = true ∧ (after (exec (.wrkey 32 0) keyed)).errcmd = 0x10002000 := by
  decide +kernel

/-- V65: RDKEY 5 after WRKEY 5, 0x7F. -/
theorem test_rdkey : reply (exec (.rdkey 5) (after (exec (.wrkey 5 0x7F) State.reset))) = some ⟨0, 0x7F⟩ := by decide +kernel

/-- V67: RDRK 239 is legal in a fresh core, RDRK 240 is not. -/
theorem test_rdrk_bounds : reply (exec (.rdrk 239) State.reset) = some ⟨0, 0⟩ ∧
    reply (exec (.rdrk 240) State.reset) = some ⟨2, 0⟩ := by decide +kernel

/-- V32: the last byte and byte 32 of the schedule of the zero key. -/
theorem test_rdrk_of_zero_key : reply (exec (.rdrk 239) keyed) = some ⟨0, 0x85⟩ ∧
    reply (exec (.rdrk 32) keyed) = some ⟨0, 0x62⟩ := by decide +kernel

/-- V65: WRBLK 15 then RDBLK 15. -/
theorem test_wrblk_rdblk : reply (exec (.rdblk 15) (after (exec (.wrblk 15 0xFF) State.reset))) = some ⟨0, 0xFF⟩ := by
  decide +kernel

/-- V65: WRCV 0 then RDCV 0; BLK is left alone. -/
theorem test_wrcv_rdcv : reply (exec (.rdcv 0) (after (exec (.wrcv 0 0xA5) State.reset))) = some ⟨0, 0xA5⟩ ∧
    (after (exec (.wrcv 0 0xA5) State.reset)).blk[0] = 0 := by decide +kernel

/-- V69: the 64th byte is accepted, the 65th raises Overflow. -/
theorem test_pushi_capacity : (after (exec (.pushi 9) (narrow 63))).ilen = 64 ∧
    reply (exec (.pushi 9) (narrow 64)) = some ⟨6, 0⟩ ∧ (after (exec (.pushi 9) (narrow 64))).ilen = 64 := by decide +kernel

/-- V65: PUSHI then RDI. -/
theorem test_pushi_rdi : reply (exec (.rdi 0) (after (exec (.pushi 0x41) State.reset))) = some ⟨0, 0x41⟩ := by
  decide +kernel

/-- V67: with ILEN = 0 and OLEN = 0 no byte is valid. -/
theorem test_rdi_rdo_empty : reply (exec (.rdi 0) State.reset) = some ⟨2, 0⟩ ∧
    reply (exec (.rdo 0) State.reset) = some ⟨2, 0⟩ := by decide +kernel

/-- V65: CLRI. -/
theorem test_clri : (after (exec .clri (inputs [0x41]))).ilen = 0 ∧ reply (exec .clri (inputs [0x41])) = some ⟨0, 0⟩ := by
  decide +kernel

/-- P4: RDO 15 and RDO 16 with OLEN = 16. -/
theorem test_rdo_bounds : reply (exec (.rdo 15) (outputs (List.replicate 16 0x0E))) = some ⟨0, 0x0E⟩ ∧
    reply (exec (.rdo 16) (outputs (List.replicate 16 0x0E))) = some ⟨2, 0⟩ := by decide +kernel

/-- V69: 48 bytes in IBUF, 64 in OBUF, capacity 64. -/
theorem test_appo_capacity :
    reply (exec (.appo 0) ((narrow 48).setOutput (List.replicate 64 2))) = some ⟨6, 0⟩ ∧
    (after (exec (.appo 48) ((narrow 48).setOutput (List.replicate 64 2)))).ilen = 64 := by decide +kernel

/-- V69: the offset OLEN appends nothing, the offset OLEN + 1 raises BadAddress. -/
theorem test_appo_bounds :
    reply (exec (.appo 64) ((narrow 64).setOutput (List.replicate 64 2))) = some ⟨0, 0⟩ ∧
    reply (exec (.appo 65) ((narrow 64).setOutput (List.replicate 64 2))) = some ⟨2, 0⟩ := by decide +kernel

/-- V10: worked products. -/
theorem test_gfmul : [(0x57, 0x83), (0x57, 0x13), (0x80, 0x02), (0xFF, 0xFF), (0x53, 0xCA)].map
      (fun p => reply (exec (.gfmul p.1 p.2) State.reset)) =
    [0xC1, 0xFE, 0x1B, 0x13, 0x01].map (fun v => some ⟨0, v⟩) := by decide +kernel

/-- The block of V20 to V25 in BLK. -/
def ramp : State := { State.reset with blk := block 0x000102030405060708090a0b0c0d0e0f }

/-- V20. -/
theorem test_subb : (after (exec .subb ramp)).blk = block 0x637c777bf26b6fc53001672bfed7ab76 := by decide +kernel
/-- V21. -/
theorem test_isubb : (after (exec .isubb ramp)).blk = block 0x52096ad53036a538bf40a39e81f3d7fb := by decide +kernel
/-- V22. -/
theorem test_shrow : (after (exec .shrow ramp)).blk = block 0x00050a0f04090e03080d02070c01060b := by decide +kernel
/-- V23. -/
theorem test_ishrow : (after (exec .ishrow ramp)).blk = block 0x000d0a0704010e0b0805020f0c090603 := by decide +kernel
/-- V26. -/
theorem test_mixc : (after (exec .mixc { State.reset with blk := block 0xdb135345f20a225c01010101c6c6c6c6 })).blk =
    block 0x8e4da1bc9fdc589d01010101c6c6c6c6 := by decide +kernel
/-- V25. -/
theorem test_imixc : (after (exec .imixc ramp)).blk = block 0x0a0f080d0e0b0c090207000506030401 := by decide +kernel

/-- V32: round key 14 of the zero key, combined with a zero block. -/
theorem test_ark : (after (exec (.ark 14) keyed)).blk = block 0x10f80a1753bf729c45c979e7cb706385 := by decide +kernel

/-- V27, V72: ARK 15 is BadAddress before NoKeySchedule. -/
theorem test_ark_order : reply (exec (.ark 0) State.reset) = some ⟨3, 0⟩ ∧
    reply (exec (.ark 15) State.reset) = some ⟨2, 0⟩ := by decide +kernel

/-- V34: the key 00 01 .. 0f 00 .. gives w[8] = 62626160. -/
theorem test_keyexp : [32, 33, 34, 35].map (fun n => reply (exec (.rdrk n) (after (exec .keyexp
      { State.reset with key := bytesOfList 32 [0, 1, 2, 3, 4, 5, 6, 7, 8, 9, 10, 11, 12, 13, 14, 15] })))) =
    [0x62, 0x62, 0x61, 0x60].map (fun v => some ⟨0, v⟩) := by decide +kernel

/-- V38. -/
theorem test_encblk_without_key : reply (exec .encblk State.reset) = some ⟨3, 0⟩ ∧
    (after (exec .encblk State.reset)).errcmd = 0x29000000 := by decide +kernel

/-- V60: the plaintext "A" padded. -/
theorem test_pad : (after (exec .pad (inputs [0x41]))).output = 0x41 :: List.replicate 15 0x0F := by decide +kernel
/-- V40: 64 bytes do not fit after padding when the capacity is 64 (R171). -/
theorem test_pad_capacity : reply (exec .pad (narrow 64)) = some ⟨6, 0⟩ ∧
    (after (exec .pad (narrow 63))).olen = 64 := by decide +kernel
/-- P4: IBUF = 41 0e fails; V65: the last byte above 16 fails. -/
theorem test_unpad_fails : reply (exec .unpad (inputs [0x41, 0x0E])) = some ⟨5, 0⟩ ∧
    reply (exec .unpad (inputs [0x5A, 0x67])) = some ⟨5, 0⟩ := by decide +kernel
/-- V62: the padded "hello world". -/
theorem test_unpad : (after (exec .unpad (inputs [0x68, 0x65, 0x6c, 0x6c, 0x6f, 0x20, 0x77, 0x6f, 0x72, 0x6c, 0x64,
      5, 5, 5, 5, 5]))).output = [0x68, 0x65, 0x6c, 0x6c, 0x6f, 0x20, 0x77, 0x6f, 0x72, 0x6c, 0x64] := by decide +kernel

/-- V53: a length that is no multiple of 16; without a key schedule NoKeySchedule comes first. -/
theorem test_cbcenc_errors : reply (exec .cbcenc (keyed.appendInput [1, 2, 3, 4, 5])) = some ⟨4, 0⟩ ∧
    reply (exec .cbcenc (inputs [1, 2, 3, 4, 5])) = some ⟨3, 0⟩ := by decide +kernel
/-- V53: an empty buffer succeeds and leaves CV; without a key schedule NoKeySchedule comes before the length. -/
theorem test_cbcdec : reply (exec .cbcdec { keyed with cv := block 5 }) = some ⟨0, 0⟩ ∧
    (after (exec .cbcdec { keyed with cv := block 5 })).cv = block 5 ∧
    reply (exec .cbcdec (inputs [1, 2, 3, 4, 5])) = some ⟨3, 0⟩ := by decide +kernel

/-- V55: "fo" and a byte 0xff. -/
theorem test_b64enc : (after (exec .b64enc (inputs [0x66, 0x6f]))).output = [0x5a, 0x6d, 0x38, 0x3d] ∧
    (after (exec .b64enc (inputs [0xFF]))).output = [0x2f, 0x77, 0x3d, 0x3d] := by decide +kernel
/-- V57: 48 bytes fit in 64 characters, 49 do not. -/
theorem test_b64enc_capacity : (after (exec .b64enc (narrow 48))).olen = 64 ∧
    reply (exec .b64enc (narrow 49)) = some ⟨6, 0⟩ := by decide +kernel
/-- V56: "short", and a byte of 0x80 that stops the scan. -/
theorem test_b64dec : (after (exec .b64dec (inputs [0x73, 0x68, 0x6f, 0x72, 0x74]))).output = [0xb2, 0x1a, 0x2b] ∧
    (after (exec .b64dec (inputs [0x5a, 0x6d, 0x80, 0x39]))).output = [0x66] := by decide +kernel

/-- V68, steps 5 and 7: dropped, the reserved word too; V66: in a fresh core it is illegal. -/
theorem test_dropped_and_illegal : reply (step (issued 0x20000203 latched)) = some ⟨0x0F, 0⟩ ∧
    reply (step (issued 0xFF000000 latched)) = some ⟨0x0F, 0⟩ ∧
    reply (step (issued 0xFF000000 State.reset)) = some ⟨1, 0⟩ := by decide +kernel

/-- V68, step 11: an exempt opcode with a bit set that must be zero is illegal while latched; the latch keeps the first. -/
theorem test_illegal_while_latched : reply (step (issued 0x02000001 latched)) = some ⟨1, 0⟩ ∧
    (after (step (issued 0x02000001 latched))).errcmd = 0x31000000 := by decide +kernel

/-- A word with the opcode of RDREG and a must-be-zero bit set, as in the clauses `otherWordsRefused`. -/
theorem test_witness_otherWordsRefused :
    opcodeField 0x03000105 = opcodeField 0x03000000 ∧ (0x03000105 : Word) &&& 0xFFFFFF00 ≠ 0x03000000 := by decide

/-! ### Witnesses: states and operands that meet the hypotheses of the obligations -/

/-- A word that decodes. -/
theorem test_witness_EncodeOfDecode : decode 0x1000057F = .ok (.wrkey 5 0x7F) := by rfl

/-- The row of GFMUL, with a word that matches it and one that does not (V13). -/
theorem test_witness_DecodeFollowsOpcodeTable :
    (⟨"GFMUL", 0x20000000, 0xFFFF0000⟩ : OpcodeRow) ∈ opcodeTable ∧
    (0x20005783 : Word) &&& 0xFFFF0000 = 0x20000000 ∧ (0x20015783 : Word) &&& 0xFFFF0000 ≠ 0x20000000 := by decide

/-- A reserved opcode and a bit that must be zero in a core with no error, the latter in an exempt opcode with an error
latched too; the ends of the reserved ranges of R95. -/
theorem test_witness_UndecodableWordsAreIllegal :
    ([0x2B000000, 0x20015783].all fun w =>
      decide ((issued w State.reset).port = [.command (BitVec.ofNat 32 w)]) && decide ((issued w State.reset).err = 0) &&
        opcodeTable.all fun r => BitVec.ofNat 32 w &&& r.mask ≠ r.pattern) = true ∧
    latched.err ≠ 0 ∧ (0x02000001 : Word).toNat / 2 ^ 24 < 4 ∧
    (opcodeTable.all fun r => (0x02000001 : Word) &&& r.mask ≠ r.pattern) = true ∧
    ∀ op ∈ [0x04, 0x0F, 0x13, 0x1D, 0x1F, 0x2B, 0x2F, 0x36, 0xFF],
      op = (BitVec.ofNat 32 (op * 2 ^ 24) : Word).toNat / 2 ^ 24 ∧
      (4 ≤ op ∧ op ≤ 0x0F ∨ op = 0x13 ∨ 0x1D ≤ op ∧ op ≤ 0x1F ∨ 0x2B ≤ op ∧ op ≤ 0x2F ∨ 0x36 ≤ op) := by
  decide +kernel

/-- A command at the port, in a fresh core and with an error latched. -/
theorem test_witness_StepRunsDecodedCommand :
    (issued 0x18000041 State.reset).port = [.command 0x18000041] ∧ (issued 0x18000041 latched).port = [.command 0x18000041] ∧
    decode 0x18000041 = .ok (.pushi 0x41) := by refine ⟨?_, ?_, ?_⟩ <;> rfl

/-- Responses of each kind: a value, an error, a drop, and a command that returns no value. -/
theorem test_witness_EveryCommandEndsWithOneResponse :
    (issued 0x03000000 State.reset).port = [.command 0x03000000] ∧
    reply (step (issued 0x03000000 State.reset)) = some ⟨0, 0x43564145⟩ ∧
    reply (step (issued 0x03000006 State.reset)) = some ⟨2, 0⟩ ∧
    reply (step (issued 0x30000000 latched)) = some ⟨0x0F, 0⟩ ∧
    decode 0x30000000 = .ok .pad ∧ reply (step (issued 0x30000000 State.reset)) = some ⟨0, 0⟩ := by
  refine ⟨rfl, ?_, ?_, ?_, rfl, ?_⟩ <;> decide +kernel

/-- The three branches of R101: dropped, illegal, a command. -/
theorem test_witness_StepFollowsDecodeOrder :
    (issued 0x30000000 latched).port = [.command 0x30000000] ∧
    decodeCommand latched.err 0x04000000 = .dropped ∧ decodeCommand latched.err 0x03000100 = .illegal ∧
    decodeCommand State.reset.err 0x04000000 = .illegal ∧ decodeCommand State.reset.err 0x30000000 = .command .pad := by
  decide +kernel

/-- No event, and the hardware reset at the port. -/
theorem test_witness_StepIdleAndHardwareReset :
    State.reset.port = [] ∧ ({ latched with port := [.reset, .command 0] } : State).port = .reset :: [.command 0] := by
  decide +kernel

/-- Opcodes 0x04 and 0xFF, and the exempt 0x03, with an error latched. -/
theorem test_witness_LatchedCommandsAreDropped :
    latched.err ≠ 0 ∧ (issued 0x04000000 latched).port = [.command 0x04000000] ∧ 4 ≤ (0x04000000 : Word).toNat / 2 ^ 24 ∧
    4 ≤ (0xFF000000 : Word).toNat / 2 ^ 24 ∧ (0x03000001 : Word).toNat / 2 ^ 24 < 4 := by decide +kernel

/-- A command that raises with the latch empty, and one that raises with an error latched. -/
theorem test_witness_ErrorEntryIsPrecise :
    (issued 0x29000000 State.reset).port = [.command 0x29000000] ∧ (issued 0x29000000 State.reset).err = 0 ∧
    reply (step (issued 0x29000000 State.reset)) = some ⟨3, 0⟩ ∧
    (issued 0x03000009 latched).err ≠ 0 ∧ reply (step (issued 0x03000009 latched)) = some ⟨2, 0⟩ := by decide +kernel

/-- RDREG 6 and a bit that must be zero, with an error latched (V68, steps 9 and 11). -/
theorem test_witness_FirstErrorSticks :
    (issued 0x03000006 latched).port = [.command 0x03000006] ∧ latched.err ≠ 0 ∧
    reply (step (issued 0x03000006 latched)) = some ⟨2, 0⟩ ∧ reply (step (issued 0x02000001 latched)) = some ⟨1, 0⟩ := by
  decide +kernel

/-- A latched state whose next event is none of the three; each of the three; a command that raises. -/
theorem test_witness_ErrorLatchChangesOnlyBy :
    (∃ t, step (issued 0x00000000 latched) = .next t) ∧ (issued 0x00000000 latched).err ≠ 0 ∧
    (∀ rest, (issued 0x00000000 latched).port ≠ .reset :: rest ∧ (issued 0x00000000 latched).port ≠ .command 0x01000000 :: rest ∧
      (issued 0x00000000 latched).port ≠ .command 0x02000000 :: rest) ∧
    (∃ t, step { latched with port := [.reset] } = .next t) ∧ (∃ t, step (issued 0x01000000 latched) = .next t) ∧
    (∃ t, step (issued 0x02000000 latched) = .next t) ∧ State.reset.err = 0 ∧
    ∃ t, step (issued 0x31000000 State.reset) = .next t ∧ t.err ≠ 0 := by
  refine ⟨⟨_, rfl⟩, by decide, fun rest => ⟨?_, ?_, ?_⟩, ⟨_, rfl⟩, ⟨_, rfl⟩, ⟨_, rfl⟩, rfl, ⟨_, rfl, by decide⟩⟩ <;>
    simp [issued, State.withFetchWord]

/-- The boundary words of R27: KEYEXP, WRKEY 31 and WRKEY 32, SRESET, and the hardware reset. -/
theorem test_witness_KvalidChangesOnlyBy :
    (issued 0x28000000 State.reset).port = [.command 0x28000000] ∧ State.reset.err = 0 ∧ keyed.err = 0 ∧
    (0x10001FFF : Word).toNat / 2 ^ 24 = 0x10 ∧ (0x10001FFF : Word).toNat / 2 ^ 8 % 2 ^ 16 ≤ 31 ∧
    ¬ (0x10002000 : Word).toNat / 2 ^ 8 % 2 ^ 16 ≤ 31 ∧ ({ keyed with port := [.reset] } : State).port = [.reset] := by
  decide +kernel

/-- No error latched, or an exempt command; an operand on each side of the end of its range. -/
theorem test_witness_BadAddressCauses :
    State.reset.err = 0 ∧ (Instr.rdreg 6).opcode.toNat < 4 ∧ operandOutOfRange (.rdreg 6) latched ∧
    ¬ operandOutOfRange (.rdreg 5) latched ∧ operandOutOfRange (.appo 1) State.reset ∧
    ¬ operandOutOfRange (.appo 0) State.reset := by
  simp only [operandOutOfRange]
  decide +kernel

/-- No error latched and no key schedule, with ARK 14 and ARK 15; a valid key schedule. -/
theorem test_witness_NoKeyScheduleCauses :
    State.reset.err = 0 ∧ State.reset.kvalid = false ∧ (14 : Byte).toNat ≤ 14 ∧ ¬ (15 : Byte).toNat ≤ 14 ∧
    keyed.err = 0 ∧ keyed.kvalid = true := by decide +kernel

/-- ILEN 15 and 16 with a valid key schedule; an unpad that fails and one that does not; results of exactly the capacity and one above it. -/
theorem test_witness_LengthPaddingOverflowCauses :
    keyed.err = 0 ∧ keyed.kvalid = true ∧ (keyed.appendInput (List.replicate 15 0)).ilen.toNat % 16 ≠ 0 ∧
    (keyed.appendInput (List.replicate 16 0)).ilen.toNat % 16 = 0 ∧
    unpad (inputs [2]).input = none ∧ unpad (inputs [1]).input = some [] ∧
    resultTooLong (.pushi 0) (narrow 64) ∧ ¬ resultTooLong (.pushi 0) (narrow 63) ∧
    resultTooLong .pad (narrow 64) ∧ ¬ resultTooLong .pad (narrow 63) ∧
    resultTooLong .b64enc (narrow 49) ∧ ¬ resultTooLong .b64enc (narrow 48) ∧
    resultTooLong (.appo 0) ((narrow 1).setOutput (List.replicate 64 0)) ∧
    ¬ resultTooLong (.appo 1) ((narrow 1).setOutput (List.replicate 64 0)) := by
  simp only [resultTooLong]
  decide +kernel

/-- A state with a byte in IBUF, a byte in OBUF and a command at the port, that has the invariant and steps. -/
theorem test_witness_StepKeepsInvariant :
    Inv (issued 0x1C000000 ((inputs [0x41]).setOutput [0x5A])) ∧
    ∃ t, step (issued 0x1C000000 ((inputs [0x41]).setOutput [0x5A])) = .next t :=
  ⟨⟨by decide +kernel, by decide +kernel, by decide +kernel, by decide +kernel, by decide +kernel,
    fun h => absurd h (by decide), fun h => absurd h (by decide), by decide +kernel, by decide +kernel, by decide +kernel,
    by decide +kernel⟩, ⟨_, rfl⟩⟩

/-- A capacity at the lower bound of R5. -/
theorem test_witness_ResetHasInvariant : 64 ≤ (64 : BitVec 16).toNat := by decide

/-- Every guard of the frame is met somewhere: WRKEY writes KEY, KEYEXP writes RK, SUBB writes BLK, WRCV writes CV, PUSHI
writes IBUF and PAD writes OBUF. -/
theorem test_witness_CommandsWriteOnlyTheirState :
    (after (exec (.wrkey 0 1) State.reset)).key ≠ State.reset.key ∧ (after (exec .keyexp State.reset)).rk ≠ State.reset.rk ∧
    (after (exec .subb State.reset)).blk ≠ State.reset.blk ∧ (after (exec (.wrcv 0 1) State.reset)).cv ≠ State.reset.cv ∧
    (after (exec (.pushi 1) State.reset)).ilen ≠ State.reset.ilen ∧
    (after (exec .pad State.reset)).olen ≠ State.reset.olen := by decide +kernel

/-- The hardware reset answers a next state. -/
theorem test_witness_SresetClearsEverything : ∃ u, hardwareReset latched = .next u := ⟨_, rfl⟩

/-- The six numbers, and 6 with and without an error latched. -/
theorem test_witness_RdregReadsControlRegisters :
    5 < (6 : Byte).toNat ∧ State.reset.err = 0 ∧ latched.err ≠ 0 ∧ ¬ 5 < (5 : Byte).toNat := by decide +kernel

/-- WRKEY 31 and WRKEY 32, with and without an error latched. -/
theorem test_witness_WrkeyWritesKeyByte :
    (0x10001FFF : Word) = 0x10000000 ||| ((31 : BitVec 16).setWidth 32 <<< 8) ||| (0xFF : Byte).setWidth 32 ∧
    State.reset.err = 0 ∧ latched.err ≠ 0 ∧ (31 : BitVec 16).toNat < 32 ∧ 32 ≤ (32 : BitVec 16).toNat := by decide +kernel

/-- The last index of each register and the first beyond it, with and without an error latched. -/
theorem test_witness_ReadCommandsReturnRegisterBytes :
    State.reset.err = 0 ∧ latched.err ≠ 0 ∧ (31 : BitVec 16).toNat < 32 ∧ 32 ≤ (32 : BitVec 16).toNat ∧
    (239 : BitVec 16).toNat < 240 ∧ 240 ≤ (240 : BitVec 16).toNat ∧ (15 : BitVec 16).toNat < 16 ∧
    16 ≤ (16 : BitVec 16).toNat := by decide +kernel

/-- Index 15 and 16, with and without an error latched. -/
theorem test_witness_WrblkAndWrcvWriteOneByte :
    (0xFFF : Word) = ((15 : BitVec 16).setWidth 32 <<< 8) ||| (0xFF : Byte).setWidth 32 ∧ State.reset.err = 0 ∧
    latched.err ≠ 0 ∧ (15 : BitVec 16).toNat < 16 ∧ 16 ≤ (16 : BitVec 16).toNat := by decide +kernel

/-- IBUF one below its capacity and full. -/
theorem test_witness_PushiAppendsOneByte :
    (0x18000041 : Word) = 0x18000000 ||| (0x41 : Byte).setWidth 32 ∧ (narrow 63).err = 0 ∧
    (narrow 63).ilen ≠ (narrow 63).cap ∧ (narrow 63).ibuf.wf = true ∧ (narrow 63).ilen.toNat < (narrow 63).cap.toNat ∧
    (narrow 64).err = 0 ∧ (narrow 64).ilen = (narrow 64).cap ∧ latched.err ≠ 0 := by decide +kernel

/-- IBUF empty and not, with and without an error latched; RDI after CLRI answers a next state. -/
theorem test_witness_ClriEmptiesInput :
    (inputs [0x41]).err = 0 ∧ latched.err ≠ 0 ∧ State.reset.ilen = 0 ∧
    ∃ u, exec (.rdi 0) (after (exec .clri (inputs [0x41]))) = .next u :=
  ⟨by decide, by decide, by decide, _, rfl⟩

/-- The last valid index and the first invalid one of each buffer. -/
theorem test_witness_RdiAndRdoReadValidBytes :
    (0x100 : Word) = (1 : BitVec 16).setWidth 32 <<< 8 ∧ (inputs [0x41]).err = 0 ∧ latched.err ≠ 0 ∧
    (0 : BitVec 16).toNat < (inputs [0x41]).input.length ∧ (inputs [0x41]).ilen.toNat ≤ (1 : BitVec 16).toNat ∧
    (0 : BitVec 16).toNat < (outputs [0x41]).output.length ∧ (outputs [0x41]).olen.toNat ≤ (1 : BitVec 16).toNat := by
  decide +kernel

/-- Offset OLEN and OLEN + 1; a tail that just fits and one that does not. -/
theorem test_witness_AppoAppendsTail :
    (0x1C000100 : Word) = 0x1C000000 ||| ((1 : BitVec 16).setWidth 32 <<< 8) ∧ (outputs [0x41]).err = 0 ∧ latched.err ≠ 0 ∧
    (1 : BitVec 16).toNat ≤ (outputs [0x41]).olen.toNat ∧ (outputs [0x41]).olen.toNat < (2 : BitVec 16).toNat ∧
    (narrow 63).ilen.toNat + 1 ≤ (narrow 63).cap.toNat ∧ (narrow 64).cap.toNat < (narrow 64).ilen.toNat + 1 ∧
    ((narrow 63).setOutput [0x41]).olen.toNat - (0 : BitVec 16).toNat = 1 ∧ (narrow 63).ibuf.wf = true := by decide +kernel

/-- With and without an error latched. -/
theorem test_witness_GfmulReturnsProduct : State.reset.err = 0 ∧ latched.err ≠ 0 := by decide +kernel

/-- An element that has an inverse (V10), and that inverse. -/
theorem test_witness_FieldLaws : (0x53 : Byte) ≠ 0 ∧ gfmul 0x53 0xCA = 1 := by decide +kernel

/-- The zero element and a pair of inverses (V29). -/
theorem test_witness_SboxIsAffineOfInverse :
    (∃ x y : Byte, x = 0 ∧ y = 0) ∧ gfmul 0x53 0xCA = 1 ∧ sbox 0x53 = 0xED := ⟨⟨0, 0, rfl, rfl⟩, by decide +kernel⟩

/-- The first and the last column of the block of V26. -/
theorem test_witness_MixColumnsMultipliesColumns :
    let s := block 0xdb135345f20a225c01010101c6c6c6c6
    (0xdb = s[4 * 0] ∧ 0x13 = s[1 + 4 * 0] ∧ 0x53 = s[2 + 4 * 0] ∧ 0x45 = s[3 + 4 * 0]) ∧
    (0xc6 = s[4 * 3] ∧ 0xc6 = s[1 + 4 * 3] ∧ 0xc6 = s[2 + 4 * 3] ∧ 0xc6 = s[3 + 4 * 3]) := by decide +kernel

/-- With and without an error latched. -/
theorem test_witness_StepCommandsTransformBlk : State.reset.err = 0 ∧ latched.err ≠ 0 := by decide +kernel

/-- Round numbers 14 and 15, KVALID 0 and 1, with and without an error latched. -/
theorem test_witness_ArkCombinesRoundKey :
    (0x2700000E : Word) = 0x27000000 ||| (14 : Byte).setWidth 32 ∧ State.reset.err = 0 ∧ latched.err ≠ 0 ∧
    (14 : Byte).toNat < 15 ∧ 15 ≤ (15 : Byte).toNat ∧ State.reset.kvalid = false ∧ keyed.err = 0 ∧ keyed.kvalid = true := by
  decide +kernel

/-- The words of the zero key's schedule; the first index of each case of R152 and the last index. -/
theorem test_witness_ExpandFollowsRecurrence :
    (∃ (key : Bytes 32) (w : Nat → KeyWord), ∀ i, w i = wordAt (expand key) i) ∧
    (8 ≤ 8 ∧ 8 < 60 ∧ 8 % 8 = 0) ∧ (12 % 8 = 4) ∧ (59 < 60 ∧ 59 % 8 ≠ 0 ∧ 59 % 8 ≠ 4) :=
  ⟨⟨State.reset.key, wordAt (expand State.reset.key), fun _ => rfl⟩, by decide, by decide, by decide⟩

/-- With and without an error latched. -/
theorem test_witness_KeyexpWritesSchedule : State.reset.err = 0 ∧ latched.err ≠ 0 := by decide +kernel

/-- The state after round `r` of encryption, as a recursion on `r`. -/
def encryptSeq (rk : Bytes 240) (s : Block) : Nat → Block
  | 0 => addRoundKey rk 0 s
  | r + 1 => if h : r < 13 then addRoundKey rk ⟨r + 1, by omega⟩ (mixColumns (shiftRows (subBytes (encryptSeq rk s r)))) else s

/-- The state after round `14 - k` of decryption, as a recursion on `k`. -/
def decryptSeq (rk : Bytes 240) (s : Block) : Nat → Block
  | 0 => invSubBytes (invShiftRows (addRoundKey rk 14 s))
  | k + 1 => invSubBytes (invShiftRows (invMixColumns (addRoundKey rk ⟨13 - k, by omega⟩ (decryptSeq rk s k))))

/-- Two functions that follow the rules of R160 and R161, for the zero schedule and the zero block. -/
theorem test_witness_CipherFollowsRounds :
    ∃ (rk : Bytes 240) (s : Block) (e d : Nat → Block),
      e 0 = addRoundKey rk 0 s ∧
      (∀ r, ∀ h : r < 13, e (r + 1) = addRoundKey rk ⟨r + 1, by omega⟩ (mixColumns (shiftRows (subBytes (e r))))) ∧
      d 14 = invSubBytes (invShiftRows (addRoundKey rk 14 s)) ∧
      ∀ r, 1 ≤ r → ∀ h : r ≤ 13,
        d r = invSubBytes (invShiftRows (invMixColumns (addRoundKey rk ⟨r, by omega⟩ (d (r + 1))))) := by
  refine ⟨State.reset.rk, State.reset.blk, encryptSeq _ _, fun r => decryptSeq _ _ (14 - r), rfl, ?_, rfl, ?_⟩
  · intro r h
    rw [encryptSeq, dif_pos h]
  · intro r h1 h
    have hk : 14 - r = (13 - r) + 1 := by omega
    have hr : (⟨13 - (13 - r), by omega⟩ : Fin 15) = ⟨r, by omega⟩ := Fin.ext (by simp; omega)
    have hk' : 14 - (r + 1) = 13 - r := by omega
    simp only [hk, hk', decryptSeq, hr]

/-- No error latched and a valid key schedule. -/
theorem test_witness_DecryptUndoesEncrypt : keyed.err = 0 ∧ keyed.kvalid = true := by decide +kernel

/-- The three kinds of state the clauses name. -/
theorem test_witness_EncblkAndDecblkTransformBlk :
    latched.err ≠ 0 ∧ State.reset.err = 0 ∧ State.reset.kvalid = false ∧ keyed.err = 0 ∧ keyed.kvalid = true := by
  decide +kernel

/-- Pad lengths 16 and 1; the sequence 01 that unpads, with its one trailing byte. -/
theorem test_witness_PadAndUnpadFollowRules :
    16 = 16 - ([] : List Byte).length % 16 ∧ 1 = 16 - (List.replicate 15 (0 : Byte)).length % 16 ∧
    [(1 : Byte)].getLast? = some 1 ∧ 1 ≤ (1 : Byte).toNat ∧ (1 : Byte).toNat ≤ [(1 : Byte)].length := by decide +kernel

/-- Last bytes 0 and 17, an inconsistent trailing byte (V42), and a padded length of exactly the capacity. -/
theorem test_witness_UnpadRecoversPadded :
    [(0 : Byte)].getLast? = some 0 ∧ [(17 : Byte)].getLast? = some 17 ∧ 16 < (17 : Byte).toNat ∧
    ([1, 2] : List Byte).getLast? = some 2 ∧ ([1, 2] : List Byte).length - (2 : Byte).toNat ≤ 0 ∧
    ([1, 2] : List Byte)[0]? = some 1 ∧ (1 : Byte) ≠ 2 ∧ (narrow 63).err = 0 ∧
    (narrow 63).ilen.toNat + 16 - (narrow 63).ilen.toNat % 16 ≤ (narrow 63).cap.toNat := by decide +kernel

/-- A padded length of exactly the capacity and one above it. -/
theorem test_witness_PadWritesPaddedInput :
    latched.err ≠ 0 ∧ (narrow 63).err = 0 ∧ (narrow 63).ilen.toNat + (16 - (narrow 63).ilen.toNat % 16) ≤ (narrow 63).cap.toNat ∧
    (narrow 64).err = 0 ∧ (narrow 64).cap.toNat < (narrow 64).ilen.toNat + (16 - (narrow 64).ilen.toNat % 16) := by
  decide +kernel

/-- Each way to fail (empty; last byte 0; 17; 2 of 1 byte; 2 after 1) and a success. -/
theorem test_witness_UnpadRemovesPadding :
    latched.err ≠ 0 ∧ State.reset.err = 0 ∧ State.reset.ilen.toNat = 0 ∧ (inputs [0]).ibuf.read 0 = 0 ∧
    16 < ((inputs [17]).ibuf.read 0).toNat ∧ (inputs [2]).ilen.toNat < ((inputs [2]).ibuf.read 0).toNat ∧
    (inputs [1, 2]).ibuf.read 1 = 2 ∧ (inputs [1, 2]).ibuf.read 0 ≠ 2 ∧
    (inputs [1]).err = 0 ∧ (inputs [1]).ibuf.read 0 = 1 ∧ (1 : Byte).toNat ≤ (inputs [1]).ilen.toNat := by decide +kernel

/-- Sequences of no chunk and of two chunks. -/
theorem test_witness_CbcFollowsChain :
    ([] : List Byte).length = 16 * 0 ∧ (List.replicate 32 (7 : Byte)).length = 16 * 2 ∧
    ∃ o last, cbcEncrypt State.reset.rk State.reset.cv (List.replicate 32 7) = (o, last) ∧
      ∃ p l, cbcDecrypt State.reset.rk State.reset.cv (List.replicate 32 7) = (p, l) :=
  ⟨rfl, rfl, _, _, rfl, _, _, rfl⟩

/-- Sequences of whole chunks. -/
theorem test_witness_CbcRoundTripAndContinuation :
    ([] : List Byte).length % 16 = 0 ∧ (List.replicate 16 (7 : Byte)).length % 16 = 0 ∧
    ∃ o c, cbcEncrypt State.reset.rk State.reset.cv (List.replicate 16 7) = (o, c) ∧
      (∃ o₂ c₂, cbcEncrypt State.reset.rk c (List.replicate 16 7) = (o₂, c₂)) ∧
      ∃ p l, cbcDecrypt State.reset.rk State.reset.cv (List.replicate 16 7) = (p, l) ∧
        ∃ p₂ l₂, cbcDecrypt State.reset.rk l (List.replicate 16 7) = (p₂, l₂) :=
  ⟨rfl, rfl, _, _, rfl, ⟨_, _, rfl⟩, _, _, rfl, _, _, rfl⟩

/-- The four kinds of state the clauses name; ILEN 15 and 16. -/
theorem test_witness_CbcCommandsWriteOutputAndCv :
    latched.err ≠ 0 ∧ State.reset.err = 0 ∧ State.reset.kvalid = false ∧ keyed.err = 0 ∧ keyed.kvalid = true ∧
    (keyed.appendInput (List.replicate 15 0)).ilen.toNat % 16 ≠ 0 ∧
    (keyed.appendInput (List.replicate 16 0)).ilen.toNat % 16 = 0 := by decide +kernel

/-- V55, "fo" = 66 6f: symbol 2 has its last two bits filled, position 3 is a pad mark; V56, "Zm8=": n = 3, one whole byte
at j = 1 and no more. -/
theorem test_witness_TextCodecPacksBits :
    6 * 2 < 8 * ([0x66, 0x6f] : List Byte).length ∧ alpha (numberOfBits 6 fun k => bitOfBytes [0x66, 0x6f] (6 * 2 + k)) = 0x38 ∧
    8 * ([0x66, 0x6f] : List Byte).length ≤ 6 * 3 ∧ 3 < 4 * ((([0x66, 0x6f] : List Byte).length + 2) / 3) ∧
    3 = (([0x5a, 0x6d, 0x38, 0x3d] : List Byte).takeWhile fun ch => (symbolValue ch).isSome).length ∧
    8 * 1 + 8 ≤ 6 * 3 ∧ ¬ 8 * 2 + 8 ≤ 6 * 3 ∧
    BitVec.ofNat 8 (numberOfBits 8 fun k => bitOfSymbols [0x5a, 0x6d, 0x38, 0x3d] (8 * 1 + k)) = (0x6f : Byte) := by
  decide +kernel

/-- A text of exactly the capacity. -/
theorem test_witness_TextRoundTrip :
    (narrow 48).err = 0 ∧ 4 * (((narrow 48).ilen.toNat + 2) / 3) ≤ (narrow 48).cap.toNat := by decide +kernel

/-- A text of exactly the capacity and one above it, with and without an error latched. -/
theorem test_witness_TextCommandsWriteOutput :
    latched.err ≠ 0 ∧ (narrow 48).err = 0 ∧ 4 * (((narrow 48).ilen.toNat + 2) / 3) ≤ (narrow 48).cap.toNat ∧
    (narrow 49).err = 0 ∧ (narrow 49).cap.toNat < 4 * (((narrow 49).ilen.toNat + 2) / 3) := by decide +kernel

/-! ### Whole blocks (last, because the kernel takes some seconds for each) -/

/-- V37: the zero block under the zero key. -/
theorem test_encblk : (after (exec .encblk keyed)).blk = block 0xdc95c078a2408989ad48a21492842087 := by decide +kernel
/-- V37. -/
theorem test_decblk : (after (exec .decblk keyed)).blk = block 0x67671ce1fa91ddeb0f8fbbb366b531b4 := by decide +kernel
/-- V37 with the chaining value zero (as in V54): one zero chunk; CV becomes the ciphertext chunk. -/
theorem test_cbcenc : (after (exec .cbcenc (keyed.appendInput (List.replicate 16 0)))).cv =
    block 0xdc95c078a2408989ad48a21492842087 := by decide +kernel

end Sys2Proof.Tests
end

/-!
SUPPORT and PROOFS. The decoder against the table of spec/30_encoding.md R93, and the order of R101. A row's mask has 1 in
the opcode and in the format's must-be-zero bits, so that a match under the mask is exactly what `decode` tests.
-/

namespace Sys2Proof

/-! ### The row of a command -/

/-- The mask of a format in R93: 1 in the opcode and in every bit the format requires to be zero (R91). -/
def Format.mask : Format → Word
  | .N => 0xFFFFFFFF
  | .I => 0xFFFFFF00
  | .A => 0xFF0000FF
  | .AI => 0xFF000000
  | .G => 0xFFFF0000

/-- The row R93 should have for a command, from its mnemonic, opcode and format. -/
def Instr.row (i : Instr) : OpcodeRow := ⟨i.mnemonic, encodeN i.opcode, i.format.mask⟩

theorem row_mem_opcodeTable (i : Instr) : i.row ∈ opcodeTable := by
  cases i <;> dsimp only [Instr.row, Instr.mnemonic, Instr.opcode, Instr.format] <;> decide

theorem opcodeTable_mnemonics_nodup : (opcodeTable.map (·.mnemonic)).Nodup := by decide

/-- A mnemonic names one row of R93. -/
theorem row_eq_of_mnemonic_eq {i : Instr} {r : OpcodeRow} (hr : r ∈ opcodeTable) (h : i.mnemonic = r.mnemonic) :
    i.row = r :=
  List.inj_on_of_nodup_map opcodeTable_mnemonics_nodup (row_mem_opcodeTable i) hr h

/-! ### Matching a word under a mask -/

theorem opcodeField_and (w v : Word) : opcodeField (w &&& v) = opcodeField w &&& opcodeField v :=
  BitVec.extractLsb'_and

theorem opcodeField_encodeN (op : Byte) : opcodeField (encodeN op) = op := by
  rw [← BitVec.toNat_inj, opcodeField_toNat, encodeN_toNat]
  omega

theorem opcodeField_mask (f : Format) : opcodeField f.mask = BitVec.allOnes 8 := by
  cases f <;> rfl

/-- No mask of R93 hides a bit of the opcode. -/
theorem opcodeField_and_mask (w : Word) (f : Format) : opcodeField (w &&& f.mask) = opcodeField w := by
  rw [opcodeField_and, opcodeField_mask, BitVec.and_allOnes]

theorem eq_encodeN_iff (w : Word) (op : Byte) :
    w = encodeN op ↔ opcodeField w = op ∧ w.extractLsb' 0 24 = 0 := by
  simp only [← BitVec.toNat_inj, opcodeField_toNat, encodeN_toNat, BitVec.extractLsb'_toNat, Nat.shiftRight_zero,
    BitVec.ofNat_eq_ofNat, BitVec.toNat_ofNat]
  omega

theorem extractLsb'_eq_zero_iff (w : Word) (lo len : Nat) :
    w.extractLsb' lo len = 0 ↔ ∀ j, lo ≤ j → j < lo + len → w.getLsbD j = false := by
  constructor
  · intro h j hlo hlt
    have hj : (w.extractLsb' lo len).getLsbD (j - lo) = false := by rw [h]; simp
    rw [BitVec.getLsbD_extractLsb', Nat.add_sub_cancel' hlo] at hj
    simpa [show j - lo < len by omega] using hj
  · intro h
    apply BitVec.eq_of_getLsbD_eq
    intro k hk
    simp [hk, h (lo + k) (by omega) (by omega)]

/-- Where the must-be-zero bits of a format stand: the lowest of them and their number (R91). -/
def Format.zeroRange : Format → Nat × Nat
  | .N => (0, 24)
  | .I => (8, 16)
  | .A => (0, 8)
  | .AI => (0, 0)
  | .G => (16, 8)

theorem mustBeZeroOk_iff (f : Format) (w : Word) :
    mustBeZeroOk f w = true ↔ w.extractLsb' f.zeroRange.1 f.zeroRange.2 = 0 := by
  cases f with
  | AI => exact iff_of_true rfl (BitVec.of_length_zero)
  | _ => exact decide_eq_true_iff

/-- Below the opcode a mask has 1 exactly in the must-be-zero bits. -/
theorem mask_getLsbD (f : Format) :
    ∀ j < 24, f.mask.getLsbD j = decide (f.zeroRange.1 ≤ j ∧ j < f.zeroRange.1 + f.zeroRange.2) := by
  cases f <;> decide

theorem zeroRange_le (f : Format) : f.zeroRange.1 + f.zeroRange.2 ≤ 24 := by
  cases f <;> decide

theorem mustBeZeroOk_iff_and_mask (f : Format) (w : Word) :
    mustBeZeroOk f w = true ↔ (w &&& f.mask).extractLsb' 0 24 = 0 := by
  have hle := zeroRange_le f
  simp only [mustBeZeroOk_iff, extractLsb'_eq_zero_iff, BitVec.getLsbD_and, Bool.and_eq_false_iff]
  constructor
  · intro h j _ hj
    rw [mask_getLsbD f j (by omega), decide_eq_false_iff_not, or_iff_not_imp_right, not_not]
    exact fun hr => h j hr.1 hr.2
  · intro h j hlo hlt
    have hm : f.mask.getLsbD j = true := by simp [mask_getLsbD f j (by omega), hlo, hlt]
    simpa [hm] using h j (by omega) (by omega)

/-- R93 in terms of the fields: under the mask of a format a word is the opcode's pattern exactly when it has that opcode
and its must-be-zero bits are 0. -/
theorem and_mask_eq_iff (f : Format) (w : Word) (op : Byte) :
    w &&& f.mask = encodeN op ↔ opcodeField w = op ∧ mustBeZeroOk f w = true := by
  rw [eq_encodeN_iff, opcodeField_and_mask, mustBeZeroOk_iff_and_mask]

/-! ### The decoder against the rows -/

theorem opcodeField_of_commandOf {w : Word} {i : Instr} (h : commandOf w = some i) : opcodeField w = i.opcode := by
  unfold commandOf at h
  split at h <;> cases h <;> exact BitVec.eq_of_toNat_eq ‹_›

/-- The row of the command a word selects depends on the word's opcode alone. -/
theorem commandOf_map_row_congr {w v : Word} (h : opcodeField w = opcodeField v) :
    (commandOf w).map Instr.row = (commandOf v).map Instr.row := by
  simp only [commandOf, h]
  split <;> rfl

/-- The pattern of every row of R93 has the opcode of a command with that row. -/
theorem commandOf_pattern : ∀ r ∈ opcodeTable, (commandOf r.pattern).map Instr.row = some r := by decide

/-- A word decodes to a command exactly when its opcode selects the command and it matches the command's row. -/
theorem decode_eq_ok_iff {w : Word} {i : Instr} :
    decode w = .ok i ↔ commandOf w = some i ∧ w &&& i.row.mask = i.row.pattern := by
  constructor
  · intro h
    obtain ⟨hc, hz⟩ := decode_ok_cases h
    exact ⟨hc, (and_mask_eq_iff i.format w i.opcode).2 ⟨opcodeField_of_commandOf hc, hz⟩⟩
  · rintro ⟨hc, hm⟩
    exact decode_of_commandOf hc ((and_mask_eq_iff i.format w i.opcode).1 hm).2

theorem row_mask_keeps_opcode : ∀ r ∈ opcodeTable, opcodeField r.mask = BitVec.allOnes 8 := by decide

/-- A word that matches a row of R93 has the opcode of that row. -/
theorem opcodeField_of_matches {r : OpcodeRow} (hr : r ∈ opcodeTable) {w : Word} (h : w &&& r.mask = r.pattern) :
    opcodeField w = opcodeField r.pattern := by
  rw [← h, opcodeField_and, row_mask_keeps_opcode r hr, BitVec.and_allOnes]

/-- A word that matches a row of R93 decodes to a command with that row. -/
theorem decode_of_matches {r : OpcodeRow} (hr : r ∈ opcodeTable) {w : Word} (h : w &&& r.mask = r.pattern) :
    ∃ i, decode w = .ok i ∧ i.row = r := by
  have hrow : (commandOf w).map Instr.row = some r :=
    (commandOf_map_row_congr (opcodeField_of_matches hr h)).trans (commandOf_pattern r hr)
  obtain ⟨i, hi, rfl⟩ := Option.map_eq_some_iff.1 hrow
  exact ⟨i, decode_eq_ok_iff.2 ⟨hi, h⟩, rfl⟩

/-- Settles O3: a match of a row gives a decoded command by the row's opcode, and the mnemonic of a decoded command names
the one row that the word then matches. -/
theorem decodeFollowsOpcodeTable : Obligations.DecodeFollowsOpcodeTable := by
  refine ⟨rfl, fun r hr w => ⟨fun h => ?_, ?_⟩⟩
  · obtain ⟨i, hi, rfl⟩ := decode_of_matches hr h
    exact ⟨i, hi, rfl⟩
  · rintro ⟨i, hi, hmn⟩
    obtain rfl := row_eq_of_mnemonic_eq hr hmn
    exact (decode_eq_ok_iff.1 hi).2

/-! ### Words that match no row -/

/-- A word that matches no row of R93 does not decode. -/
theorem decode_eq_error_of_no_match {w : Word} (h : ∀ r ∈ opcodeTable, w &&& r.mask ≠ r.pattern) :
    ∃ e, decode w = .error e := by
  cases hd : decode w with
  | error e => exact ⟨e, rfl⟩
  | ok i => exact absurd (decode_eq_ok_iff.1 hd).2 (h i.row (row_mem_opcodeTable i))

/-- The reserved opcodes, by their ranges (R95). -/
def ReservedOpcode (op : Nat) : Prop :=
  4 ≤ op ∧ op ≤ 0x0F ∨ op = 0x13 ∨ 0x1D ≤ op ∧ op ≤ 0x1F ∨ 0x2B ≤ op ∧ op ≤ 0x2F ∨ 0x36 ≤ op

theorem pattern_not_reserved : ∀ r ∈ opcodeTable, ¬ ReservedOpcode (opcodeField r.pattern).toNat := by
  unfold ReservedOpcode
  decide

theorem no_match_of_reserved {w : Word} (h : ReservedOpcode (opcodeField w).toNat) :
    ∀ r ∈ opcodeTable, w &&& r.mask ≠ r.pattern := fun r hr hm =>
  pattern_not_reserved r hr (opcodeField_of_matches hr hm ▸ h)

namespace Machine

variable {s : State} {w : Word} {rest : List HostEvent}

/-! ### The step on a word that decodes and on one that does not -/

theorem step_of_decode_ok {i : Instr} (hp : s.port = .command w :: rest) (hd : decode w = .ok i) :
    step s = exec i s := by
  rw [step_of_command hp, hd]

theorem step_of_decode_error {e : DecodeError} (hp : s.port = .command w :: rest) (hd : decode w = .error e) :
    step s = rejectWord w s := by
  rw [step_of_command hp, hd]

/-- A word with no command is dropped when an error is latched and its opcode is not exempt (R257). -/
theorem rejectWord_of_dropped (he : s.err ≠ 0) (hop : 4 ≤ (opcodeField w).toNat) : rejectWord w s = drop s := by
  rw [rejectWord, if_pos hop]
  exact if_neg he

/-- With no error latched, or with an exempt opcode, it raises IllegalCommand (R251). -/
theorem rejectWord_of_not_dropped (h : ¬ (s.err ≠ 0 ∧ 4 ≤ (opcodeField w).toNat)) :
    rejectWord w s = raise .illegalCommand w s := by
  rw [rejectWord]
  split
  · next hop => exact unlessLatched_of_clear (by_contra fun he => h ⟨he, hop⟩)
  · rfl

theorem raise_of_clear (e : ErrorCode) (h : s.err = 0) :
    raise e w s = .next (State.respond e.cc 0 { s with err := e.code, errcmd := w }) := by
  rw [raise, latchError_of_clear s e w h]

theorem raise_of_latched (e : ErrorCode) (h : s.err ≠ 0) : raise e w s = .next (s.respond e.cc 0) := by
  rw [raise, latchError_of_latched s e w h]

/-- Settles O4: the word does not decode, so the step rejects it, and what is rejected but not dropped raises. -/
theorem undecodableWordsAreIllegal : Obligations.UndecodableWordsAreIllegal := by
  refine ⟨fun s w rest hp hno => ?_, ?_⟩
  · obtain ⟨e, hd⟩ := decode_eq_error_of_no_match hno
    rw [step_of_decode_error hp hd]
    constructor
    · intro he
      rw [rejectWord_of_not_dropped fun h => h.1 he, raise_of_clear _ he]
      rfl
    · intro he hop
      rw [← opcodeField_toNat] at hop
      rw [rejectWord_of_not_dropped fun h => absurd h.2 (by omega), raise_of_latched _ he]
      rfl
  · rintro w op rfl hop
    rw [← opcodeField_toNat] at hop
    exact no_match_of_reserved hop

/-! ### The order of R101 -/

/-- Every command from opcode 4 on looks at the latch first (R257, R258 line 1). -/
theorem exec_eq_unlessLatched {i : Instr} (h : 4 ≤ i.opcode.toNat) (s : State) : ∃ k, exec i s = unlessLatched s k := by
  cases i with
  | nop | sreset | clrerr | rdreg _ => exact absurd h (by simp [Instr.opcode])
  | _ => exact ⟨_, rfl⟩

theorem exec_of_dropped {i : Instr} (he : s.err ≠ 0) (hop : 4 ≤ i.opcode.toNat) : exec i s = drop s := by
  obtain ⟨k, hk⟩ := exec_eq_unlessLatched hop s
  rw [hk]
  exact unlessLatched_of_latched he

/-- The drop of R257, whether or not the word is a command. -/
theorem step_of_dropped (hp : s.port = .command w :: rest) (he : s.err ≠ 0) (hop : 4 ≤ (opcodeField w).toNat) :
    step s = drop s := by
  cases hd : decode w with
  | error e => rw [step_of_decode_error hp hd, rejectWord_of_dropped he hop]
  | ok i =>
    rw [opcodeField_of_commandOf (decode_ok_cases hd).1] at hop
    rw [step_of_decode_ok hp hd, exec_of_dropped he hop]

/-- Settles O8, along the branches of R101's function. -/
theorem stepFollowsDecodeOrder : Obligations.StepFollowsDecodeOrder := by
  intro s w rest hp
  by_cases hdrop : s.err ≠ 0 ∧ 4 ≤ (opcodeField w).toNat
  · rw [step_of_dropped hp hdrop.1 hdrop.2, decodeCommand, if_pos hdrop]
    rfl
  · rw [decodeCommand, if_neg hdrop]
    cases hd : decode w with
    | error e => exact (step_of_decode_error hp hd).trans (rejectWord_of_not_dropped hdrop)
    | ok i => exact step_of_decode_ok hp hd

end Machine

end Sys2Proof

/-!
SUPPORT and PROOFS. Field arithmetic (spec/40_gf_arithmetic.md R120 to R123). Reduction modulo 0x11B is linear and is 0 on
the shifts of 0x11B, so `n` rounds of `xtime` are the reduced product with x^n (R121); the loop of R120 adds up those
products for the bits of `b`, as the carry-less product adds up the shifts of `a`.
-/

namespace Sys2Proof.Machine

/-! ### Reduction modulo 0x11B -/

/-- One line of the reduction: the multiple of 0x11B by x^k is taken away where x^(k+8) is present. -/
def cancelTerm (y k : Nat) : Nat := if y.testBit (k + 8) then y ^^^ (0x11B <<< k) else y

theorem polyMod_eq_foldl (x : Nat) : polyMod x = [6, 5, 4, 3, 2, 1, 0].foldl cancelTerm x := rfl

theorem cancelTerm_xor (x y k : Nat) : cancelTerm (x ^^^ y) k = cancelTerm x k ^^^ cancelTerm y k := by
  unfold cancelTerm
  rw [Nat.testBit_xor]
  cases x.testBit (k + 8) <;> cases y.testBit (k + 8)
  · rfl
  · exact Nat.xor_assoc ..
  · exact Nat.xor_right_comm ..
  · simp [Nat.xor_assoc]

theorem cancelTerm_of_lt {x : Nat} (k : Nat) (h : x < 2 ^ 8) : cancelTerm x k = x := by
  have hk : x.testBit (k + 8) = false :=
    Nat.testBit_lt_two_pow (h.trans_le (Nat.pow_le_pow_right (by decide) (by omega)))
  simp [cancelTerm, hk]

theorem foldl_cancelTerm_xor (ks : List Nat) (x y : Nat) :
    ks.foldl cancelTerm (x ^^^ y) = ks.foldl cancelTerm x ^^^ ks.foldl cancelTerm y := by
  induction ks generalizing x y with
  | nil => rfl
  | cons k ks ih => rw [List.foldl_cons, cancelTerm_xor, ih, List.foldl_cons, List.foldl_cons]

theorem foldl_cancelTerm_of_lt (ks : List Nat) {x : Nat} (h : x < 2 ^ 8) : ks.foldl cancelTerm x = x := by
  induction ks with
  | nil => rfl
  | cons k ks ih => rw [List.foldl_cons, cancelTerm_of_lt k h, ih]

/-- Reduction is linear over GF(2). -/
theorem polyMod_xor (x y : Nat) : polyMod (x ^^^ y) = polyMod x ^^^ polyMod y :=
  foldl_cancelTerm_xor _ x y

/-- A polynomial of degree below 8 is its own remainder. -/
theorem polyMod_of_lt {x : Nat} (h : x < 2 ^ 8) : polyMod x = x :=
  foldl_cancelTerm_of_lt _ h

theorem polyMod_modulus_shiftLeft : ∀ k < 7, polyMod (0x11B <<< k) = 0 := by decide

/-! ### Multiplication by x (R121) -/

theorem getLsbD_seven_iff (a : Byte) : a.getLsbD 7 = true ↔ 2 ^ 7 ≤ a.toNat :=
  (BitVec.msb_eq_true_iff_two_mul_ge (x := a)).trans (by omega)

/-- Taking 0x11B away cancels the term x^8. -/
theorem xor_modulus_lt {y : Nat} (h : y / 2 ^ 8 = 1) : y ^^^ 0x11B < 2 ^ 8 := by
  rw [← Nat.div_eq_zero_iff_lt (by decide), Nat.xor_div_two_pow, h]
  rfl

/-- `xtime` shifts by one place and takes 0x11B away once when that gives degree 8. -/
theorem xtime_toNat (a : Byte) :
    (xtime a).toNat = if a.getLsbD 7 then (a.toNat <<< 1) ^^^ 0x11B else a.toNat <<< 1 := by
  have hshift : (a <<< 1).toNat = (a.toNat <<< 1) % 2 ^ 8 := BitVec.toNat_shiftLeft
  have hdouble : a.toNat <<< 1 = a.toNat * 2 := Nat.shiftLeft_eq ..
  unfold xtime
  split
  · next h =>
    rw [getLsbD_seven_iff] at h
    calc ((a <<< 1) ^^^ 0x1B).toNat
        = (a.toNat <<< 1) % 2 ^ 8 ^^^ 0x11B % 2 ^ 8 := by rw [BitVec.toNat_xor, hshift]; rfl
      _ = ((a.toNat <<< 1) ^^^ 0x11B) % 2 ^ 8 := Nat.xor_mod_two_pow.symm
      _ = (a.toNat <<< 1) ^^^ 0x11B := Nat.mod_eq_of_lt (xor_modulus_lt (by omega))
  · next h =>
    rw [getLsbD_seven_iff] at h
    exact hshift.trans (Nat.mod_eq_of_lt (by omega))

/-- A shift by one place and a round of `xtime` differ by a multiple of 0x11B, which reduction takes away. -/
theorem polyMod_xtime_shiftLeft (a : Byte) {k : Nat} (hk : k < 7) :
    polyMod ((xtime a).toNat <<< k) = polyMod (a.toNat <<< (k + 1)) := by
  rw [xtime_toNat, Nat.add_comm, Nat.shiftLeft_add]
  split
  · rw [Nat.shiftLeft_xor_distrib, polyMod_xor, polyMod_modulus_shiftLeft k hk, Nat.xor_zero]
  · rfl

theorem polyMod_iterate_xtime_shiftLeft (a : Byte) (n k : Nat) (h : n + k ≤ 7) :
    polyMod ((xtime^[n] a).toNat <<< k) = polyMod (a.toNat <<< (n + k)) := by
  induction n generalizing k with
  | zero => rw [Nat.zero_add]; rfl
  | succ n ih =>
    rw [Function.iterate_succ_apply', polyMod_xtime_shiftLeft _ (by omega), ih (k + 1) (by omega)]
    congr 2
    omega

/-- R121 repeated: `n` rounds of `xtime` give the reduced product with x^n. -/
theorem iterate_xtime_toNat (a : Byte) {n : Nat} (hn : n ≤ 7) : (xtime^[n] a).toNat = polyMod (a.toNat <<< n) := by
  rw [← polyMod_of_lt (xtime^[n] a).isLt]
  exact polyMod_iterate_xtime_shiftLeft a n 0 hn

/-! ### The product (R120) -/

/-- The product of `a` with the `n` lowest terms of `b`. -/
def polyMulLow (n a b : Nat) : Nat :=
  (List.range n).foldl (fun acc i => if b.testBit i then acc ^^^ (a <<< i) else acc) 0

theorem polyMul_eq_polyMulLow (a b : Nat) : polyMul a b = polyMulLow 8 a b := rfl

theorem polyMulLow_succ (n a b : Nat) :
    polyMulLow (n + 1) a b = if b.testBit n then polyMulLow n a b ^^^ (a <<< n) else polyMulLow n a b := by
  simp only [polyMulLow, List.range_succ, List.foldl_append, List.foldl_cons, List.foldl_nil]

/-- The loop seen from its end: the last iteration adds `a` after `n` rounds of `xtime` when bit `n` of `b` is set. -/
theorem gfmulLoop_succ (n : Nat) (acc a b : Byte) :
    gfmulLoop (n + 1) acc a b =
      if b.getLsbD n then gfmulLoop n acc a b ^^^ xtime^[n] a else gfmulLoop n acc a b := by
  induction n generalizing acc a b with
  | zero => rfl
  | succ n ih =>
    rw [gfmulLoop, ih, BitVec.getLsbD_ushiftRight, Nat.add_comm 1 n, Function.iterate_succ_apply]
    rfl

/-- After `n` iterations the accumulator is the reduced product with the `n` lowest terms of `b`. -/
theorem gfmulLoop_toNat (a b : Byte) {n : Nat} (hn : n ≤ 8) :
    (gfmulLoop n 0 a b).toNat = polyMod (polyMulLow n a.toNat b.toNat) := by
  induction n with
  | zero => exact (polyMod_of_lt (x := 0) (by decide)).symm
  | succ n ih =>
    rw [gfmulLoop_succ, polyMulLow_succ, BitVec.testBit_toNat]
    split
    · rw [BitVec.toNat_xor, polyMod_xor, ih (by omega), iterate_xtime_toNat a (by omega)]
    · exact ih (by omega)

/-- Settles O32: the whole loop is the case of all eight terms. -/
theorem gfmulIsPolynomialProduct : Obligations.GfmulIsPolynomialProduct := by
  intro a b
  rw [polyMul_eq_polyMulLow]
  exact gfmulLoop_toNat a b le_rfl

end Sys2Proof.Machine

namespace Sys2Proof

/-! ### The word of GFMUL -/

/-- A word with the opcode of a row of R93 that does not match the row is no command (R94). -/
theorem otherWordsRefused_of_mem {r : OpcodeRow} (hr : r ∈ opcodeTable) :
    Machine.otherWordsRefused r.pattern r.mask := by
  intro w hop hw
  cases hd : decode w with
  | error e => exact ⟨e, rfl⟩
  | ok i =>
    obtain ⟨hc, hm⟩ := decode_eq_ok_iff.1 hd
    have hrow : (commandOf w).map Instr.row = some r := (commandOf_map_row_congr hop).trans (commandOf_pattern r hr)
    obtain rfl : i.row = r := by simpa [hc] using hrow
    exact absurd hm hw

/-- The format G as its fields set side by side by OR (R91). -/
theorem encodeG_eq_or (op a b : Byte) :
    encodeG op a b = (op.setWidth 32 <<< 24) ||| (a.setWidth 32 <<< 8) ||| b.setWidth 32 := by
  apply BitVec.eq_of_getLsbD_eq
  intro i hi
  simp only [BitVec.getLsbD_or, BitVec.getLsbD_shiftLeft, BitVec.getLsbD_setWidth]
  grind [encodeG]

theorem opcodeField_encodeG (op a b : Byte) : opcodeField (encodeG op a b) = op := by
  rw [← BitVec.toNat_inj, opcodeField_toNat, encodeG_toNat]
  omega

theorem aField_encodeG (op a b : Byte) : aField (encodeG op a b) = a := by
  rw [← BitVec.toNat_inj, aField_toNat, encodeG_toNat]
  omega

theorem imm8Field_encodeG (op a b : Byte) : imm8Field (encodeG op a b) = b := by
  rw [← BitVec.toNat_inj, imm8Field_toNat, encodeG_toNat]
  omega

theorem mustBeZeroOk_encodeG (op a b : Byte) : mustBeZeroOk .G (encodeG op a b) = true := by
  rw [mustBeZeroOk_G, encodeG_toNat]
  omega

theorem commandOf_of_opcode_gfmul {w : Word} (h : opcodeField w = 0x20) :
    commandOf w = some (.gfmul (aField w) (imm8Field w)) := by
  rw [commandOf, h]
  rfl

/-- GFMUL decodes from its word with both operands as written (R123). -/
theorem decode_encode_gfmul (a b : Byte) : decode (encode (.gfmul a b)) = .ok (.gfmul a b) := by
  have hc := commandOf_of_opcode_gfmul (opcodeField_encodeG 0x20 a b)
  rw [aField_encodeG, imm8Field_encodeG] at hc
  exact decode_of_commandOf hc (mustBeZeroOk_encodeG 0x20 a b)

namespace Machine

/-- Settles O33: the row of GFMUL refuses the other words, the word is GFMUL's own, and the meaning is the drop check and
then the response. -/
theorem gfmulReturnsProduct : Obligations.GfmulReturnsProduct := by
  refine ⟨otherWordsRefused_of_mem (r := ⟨"GFMUL", 0x20000000, 0xFFFF0000⟩) (by decide), fun a b s => ⟨?_, ?_, ?_⟩⟩
  · exact encodeG_eq_or 0x20 a b ▸ decode_encode_gfmul a b
  · exact unlessLatched_of_latched
  · intro he
    rw [BitVec.ofNat_toNat]
    exact unlessLatched_of_clear he

end Machine

end Sys2Proof

/-!
SUPPORT and PROOFS. The block transform steps and their commands (spec/41_block_transform.md R130 to R146). A step is a
function of the block given byte by byte; the commands are the drop check and then that function.
-/

namespace Sys2Proof.Machine

/-! ### Byte substitution (R131 to R133) -/

/-- INVSBOX read at an entry of SBOX gives that entry's index (R132). -/
@[simp] theorem invSbox_sbox : ∀ x : Byte, invSbox (sbox x) = x := by decide +kernel

/-- SBOX is injective on a finite set, hence onto, so that INVSBOX undoes it on both sides. -/
@[simp] theorem sbox_invSbox (x : Byte) : sbox (invSbox x) = x :=
  have hleft : Function.LeftInverse invSbox sbox := invSbox_sbox
  hleft.rightInverse_of_surjective (Finite.surjective_of_injective hleft.injective) x

theorem invSubBytes_subBytes (s : Block) : invSubBytes (subBytes s) = s :=
  bytes_ext fun n => by rw [invSubBytes_getFin, subBytes_getFin, invSbox_sbox]

theorem subBytes_invSubBytes (s : Block) : subBytes (invSubBytes s) = s :=
  bytes_ext fun n => by rw [subBytes_getFin, invSubBytes_getFin, sbox_invSbox]

/-- Settles O36: the two tables undo each other, and substitution works byte by byte. -/
theorem subBytesInverts : Obligations.SubBytesInverts := fun s =>
  ⟨fun n => ⟨subBytes_getFin s n, invSubBytes_getFin s n⟩, invSubBytes_subBytes s, subBytes_invSubBytes s⟩

/-! ### Row shift (R136, R138) -/

/-- Every index of a block is the place of its row and column (R10). -/
theorem matrixIndex_mod_div (n : Fin 16) : matrixIndex (n.val % 4) (n.val / 4) = n := by
  apply Fin.ext
  simp only [matrixIndex]
  omega

/-- Two blocks are equal when they agree at every row and column. -/
theorem block_ext {s t : Block} (h : ∀ r c : Nat, s[matrixIndex r c] = t[matrixIndex r c]) : s = t :=
  bytes_ext fun n => matrixIndex_mod_div n ▸ h (n.val % 4) (n.val / 4)

/-- Rows and columns are taken modulo 4. -/
theorem getMatrixIndex_congr (s : Block) {r r' c c' : Nat} (hr : r % 4 = r' % 4) (hc : c % 4 = c' % 4) :
    s[matrixIndex r c] = s[matrixIndex r' c'] := by
  simp only [matrixIndex, hr, hc]

theorem matrixIndex_row (r c : Nat) : (matrixIndex r c).val % 4 = r % 4 := by
  simp only [matrixIndex]
  omega

theorem matrixIndex_col (r c : Nat) : (matrixIndex r c).val / 4 = c % 4 := by
  simp only [matrixIndex]
  omega

/-- R136: entry (r, c) after the shift is entry (r, c + r) before it. -/
theorem shiftRows_getMatrixIndex (s : Block) (r c : Nat) :
    (shiftRows s)[matrixIndex r c] = s[matrixIndex r (c + r)] := by
  simp only [shiftRows_getFin, matrixIndex_row, matrixIndex_col]
  exact getMatrixIndex_congr s (Nat.mod_mod r 4) (Nat.add_mod c r 4).symm

/-- R138: entry (r, c + r) after the inverse shift is entry (r, c) before it. -/
theorem invShiftRows_getMatrixIndex (s : Block) (r c : Nat) :
    (invShiftRows s)[matrixIndex r (c + r)] = s[matrixIndex r c] := by
  simp only [invShiftRows_getFin, matrixIndex_row, matrixIndex_col]
  exact getMatrixIndex_congr s (Nat.mod_mod r 4) (by omega)

theorem shiftRows_invShiftRows (s : Block) : shiftRows (invShiftRows s) = s :=
  block_ext fun r c => by rw [shiftRows_getMatrixIndex, invShiftRows_getMatrixIndex]

theorem invShiftRows_shiftRows (s : Block) : invShiftRows (shiftRows s) = s :=
  block_ext fun r c => by
    have hcol (t : Block) : t[matrixIndex r c] = t[matrixIndex r (c + 3 * r + r)] :=
      getMatrixIndex_congr t rfl (by omega)
    rw [hcol, invShiftRows_getMatrixIndex, shiftRows_getMatrixIndex, ← hcol]

/-- A byte at a written-out index is the entry of its row and column (R10). -/
theorem getElem_eq_getMatrixIndex (s : Block) {r c i : Nat} (hi : i < 16) (h : r % 4 + 4 * (c % 4) = i) :
    s[i] = s[matrixIndex r c] := by
  subst h
  rfl

/-- Settles O37: both directions at an entry, the two permutations by evaluation, and the round trips. -/
theorem rowShiftRotatesRows : Obligations.RowShiftRotatesRows := by
  refine fun s => ⟨fun r c => ?_, rfl, rfl, invShiftRows_shiftRows s, shiftRows_invShiftRows s⟩
  have hentry (t : Block) : t[r.val + 4 * c.val] = t[matrixIndex r c] :=
    getElem_eq_getMatrixIndex t _ (by omega)
  have hmoved (t : Block) : t[r.val + 4 * ((c.val + r.val) % 4)] = t[matrixIndex r (c + r)] :=
    getElem_eq_getMatrixIndex t _ (by omega)
  rw [hentry, hmoved, hentry, hmoved]
  exact ⟨shiftRows_getMatrixIndex s r c, invShiftRows_getMatrixIndex s r c⟩

/-! ### Column mix (R140) -/

/-- The product of the polynomial 1 with the `n` lowest terms of `b`, compared bit by bit. -/
theorem polyMulLow_one (n b : Nat) : polyMulLow n 1 b = b % 2 ^ n := by
  induction n with
  | zero => simp [polyMulLow, Nat.mod_one]
  | succ n ih =>
    apply Nat.eq_of_testBit_eq
    intro i
    rw [polyMulLow_succ, ih, Nat.one_shiftLeft, apply_ite (Nat.testBit · i)]
    grind

/-- 1 is neutral in GF(2^8). -/
@[simp] theorem one_gfmul (x : Byte) : gfmul 1#8 x = x := by
  apply BitVec.eq_of_toNat_eq
  calc (gfmul 1#8 x).toNat
      = polyMod (polyMulLow 8 1 x.toNat) := gfmulIsPolynomialProduct 1#8 x
    _ = polyMod x.toNat := by rw [polyMulLow_one, Nat.mod_eq_of_lt x.isLt]
    _ = x.toNat := polyMod_of_lt x.isLt

/-- Row `r` of the product of a matrix with column `c` (R140). -/
theorem mixWith_getMatrixIndex (mx : List (List Byte)) (s : Block) (r c : Nat) :
    (mixWith mx s)[matrixIndex r c] =
      gfmul (matrixEntry mx (r % 4) 0) s[matrixIndex 0 c] ^^^ gfmul (matrixEntry mx (r % 4) 1) s[matrixIndex 1 c] ^^^
      gfmul (matrixEntry mx (r % 4) 2) s[matrixIndex 2 c] ^^^ gfmul (matrixEntry mx (r % 4) 3) s[matrixIndex 3 c] := by
  have hcol (k : Nat) : s[matrixIndex k (c % 4)] = s[matrixIndex k c] := getMatrixIndex_congr s rfl (Nat.mod_mod c 4)
  simp only [mixWith_getFin, matrixIndex_row, matrixIndex_col, hcol]

/-- Settles O38: each row of MIX, with its two coefficients 1 left out. -/
theorem mixColumnsMultipliesColumns : Obligations.MixColumnsMultipliesColumns := by
  rintro s c _ _ _ _ rfl rfl rfl rfl
  have hrow0 (t : Block) : t[4 * c.val] = t[matrixIndex 0 c] := getElem_eq_getMatrixIndex t _ (by omega)
  have hrow1 (t : Block) : t[1 + 4 * c.val] = t[matrixIndex 1 c] := getElem_eq_getMatrixIndex t _ (by omega)
  have hrow2 (t : Block) : t[2 + 4 * c.val] = t[matrixIndex 2 c] := getElem_eq_getMatrixIndex t _ (by omega)
  have hrow3 (t : Block) : t[3 + 4 * c.val] = t[matrixIndex 3 c] := getElem_eq_getMatrixIndex t _ (by omega)
  rw [hrow0, hrow1, hrow2, hrow3, hrow0, hrow1, hrow2, hrow3]
  simp only [mixColumns, mixWith_getMatrixIndex]
  simp [matrixEntry, mixMatrix]

/-! ### Round-key combination (R144) -/

theorem addRoundKey_addRoundKey (rk : Bytes 240) (r : Fin 15) (s : Block) :
    addRoundKey rk r (addRoundKey rk r s) = s :=
  bytes_ext fun n => by rw [addRoundKey_getFin, addRoundKey_getFin, BitVec.xor_assoc, BitVec.xor_self, BitVec.xor_zero]

/-- Settles O40: byte by byte, and twice the same byte of RK cancels. -/
theorem addRoundKeyIsInvolution : Obligations.AddRoundKeyIsInvolution := fun rk r s =>
  ⟨addRoundKey_getFin rk r s, addRoundKey_addRoundKey rk r s⟩

/-! ### The keyless commands -/

/-- With no error latched a step command replaces BLK and nothing else (R130). -/
theorem stepBlock_of_clear (f : Block → Block) {s : State} (h : s.err = 0) :
    stepBlock f s = .next (State.respond 0 0 { s with blk := f s.blk }) :=
  unlessLatched_of_clear h

/-- What the six keyless step commands have in common: the word is a whole row of R93, and the meaning is a function of
BLK behind the drop check. -/
theorem stepCommand_transforms_blk {i : Instr} {w : Word} {f : Block → Block} (s : State) (hdecode : decode w = .ok i)
    (hpattern : i.row.pattern = w) (hmask : i.row.mask = 0xFFFFFFFF) (hexec : exec i s = stepBlock f s) :
    decode w = .ok i ∧ otherWordsRefused w 0xFFFFFFFF ∧
    (s.err ≠ 0 → exec i s = .next (s.respond 0x0F 0)) ∧
    (s.err = 0 → exec i s = .next (State.respond 0 0 { s with blk := f s.blk })) :=
  ⟨hdecode, hpattern ▸ hmask ▸ otherWordsRefused_of_mem (row_mem_opcodeTable i),
    fun he => hexec.trans (unlessLatched_of_latched he), fun he => hexec.trans (stepBlock_of_clear f he)⟩

/-- Settles O41: each command is such a step, for its word and its function. -/
theorem stepCommandsTransformBlk : Obligations.StepCommandsTransformBlk := by
  intro s
  simp only [List.forall_mem_cons]
  refine ⟨?subb, ?isubb, ?shrow, ?ishrow, ?mixc, ?imixc, List.forall_mem_nil _⟩ <;>
    exact stepCommand_transforms_blk s rfl rfl rfl rfl

end Sys2Proof.Machine

namespace Sys2Proof

/-! ### The word of ARK -/

/-- The format I as its fields set side by side by OR (R91). -/
theorem encodeI_eq_or (op n : Byte) : encodeI op n = (op.setWidth 32 <<< 24) ||| n.setWidth 32 := by
  apply BitVec.eq_of_getLsbD_eq
  intro i hi
  simp only [BitVec.getLsbD_or, BitVec.getLsbD_shiftLeft, BitVec.getLsbD_setWidth]
  grind [encodeI]

theorem opcodeField_encodeI (op n : Byte) : opcodeField (encodeI op n) = op := by
  rw [← BitVec.toNat_inj, opcodeField_toNat, encodeI_toNat]
  omega

theorem imm8Field_encodeI (op n : Byte) : imm8Field (encodeI op n) = n := by
  rw [← BitVec.toNat_inj, imm8Field_toNat, encodeI_toNat]
  omega

theorem mustBeZeroOk_encodeI (op n : Byte) : mustBeZeroOk .I (encodeI op n) = true := by
  rw [mustBeZeroOk_I, encodeI_toNat]
  omega

theorem commandOf_of_opcode_ark {w : Word} (h : opcodeField w = 0x27) : commandOf w = some (.ark (imm8Field w)) := by
  rw [commandOf, h]
  rfl

/-- ARK decodes from its word with the round number as written (R145). -/
theorem decode_encode_ark (r : Byte) : decode (encode (.ark r)) = .ok (.ark r) := by
  have hc := commandOf_of_opcode_ark (opcodeField_encodeI 0x27 r)
  rw [imm8Field_encodeI] at hc
  exact decode_of_commandOf hc (mustBeZeroOk_encodeI 0x27 r)

namespace Machine

/-! ### The meaning of ARK, check by check (R145, R258) -/

section

variable {r : Byte} {s : State}

theorem exec_ark_of_latched (he : s.err ≠ 0) : exec (.ark r) s = .next (s.respond 0x0F 0) :=
  unlessLatched_of_latched he

theorem exec_ark_of_ge (he : s.err = 0) (hr : 15 ≤ r.toNat) :
    exec (.ark r) s = .next (State.respond 2 0 { s with err := 2, errcmd := encode (.ark r) }) := calc
  exec (.ark r) s = raise .badAddress (encode (.ark r)) s := (unlessLatched_of_clear he).trans (withIndex_of_ge hr)
  _ = _ := raise_of_clear .badAddress he

/-- With no error latched and the round number in range, what is left is the key guard. -/
theorem exec_ark_of_lt (he : s.err = 0) (hr : r.toNat < 15) :
    exec (.ark r) s = requireKey (encode (.ark r)) s
      (complete 0 { s with blk := addRoundKey s.rk ⟨r.toNat, hr⟩ s.blk }) :=
  (unlessLatched_of_clear he).trans (withIndex_of_lt hr)

theorem exec_ark_of_invalid (he : s.err = 0) (hr : r.toNat < 15) (hk : s.kvalid = false) :
    exec (.ark r) s = .next (State.respond 3 0 { s with err := 3, errcmd := encode (.ark r) }) := calc
  exec (.ark r) s = raise .noKeySchedule (encode (.ark r)) s := (exec_ark_of_lt he hr).trans (requireKey_of_invalid hk)
  _ = _ := raise_of_clear .noKeySchedule he

theorem exec_ark_of_valid (he : s.err = 0) (hr : r.toNat < 15) (hk : s.kvalid = true) :
    exec (.ark r) s = .next (State.respond 0 0 { s with blk := addRoundKey s.rk ⟨r.toNat, hr⟩ s.blk }) :=
  (exec_ark_of_lt he hr).trans (requireKey_of_valid hk)

end

/-- Settles O42, check by check; the new block is read off byte by byte. -/
theorem arkCombinesRoundKey : Obligations.ArkCombinesRoundKey := by
  refine ⟨otherWordsRefused_of_mem (r := ⟨"ARK", 0x27000000, 0xFFFFFF00⟩) (by decide), fun r s w hw => ?_⟩
  obtain rfl : w = encode (.ark r) := hw.trans (encodeI_eq_or 0x27 r).symm
  exact ⟨decode_encode_ark r, exec_ark_of_latched, exec_ark_of_ge, exec_ark_of_invalid,
    fun he hr hk => ⟨_, exec_ark_of_valid he hr hk, addRoundKey_getFin s.rk ⟨r.toNat, hr⟩ s.blk⟩⟩

end Machine

end Sys2Proof

/-!
SUPPORT and PROOFS. The key schedule and KEYEXP (spec/42_key_schedule.md R150 to R156). The schedule grows at its end only,
so that a word keeps the value it had when it was made, and the recurrence can be read off the finished schedule.
-/

namespace Sys2Proof.Machine

/-! ### The words made so far (R152) -/

@[simp] theorem seedWords_length (key : Bytes 32) : (seedWords key).length = 8 := by simp [seedWords]

@[simp] theorem scheduleWords_length (key : Bytes 32) (n : Nat) : (scheduleWords key n).length = 8 + n := by
  induction n with
  | zero => exact seedWords_length key
  | succ n ih => rw [scheduleWords, List.length_append, ih, List.length_singleton, Nat.add_assoc]

theorem wordAt_append_left {ws : List KeyWord} (vs : List KeyWord) {i : Nat} (h : i < ws.length) :
    wordAt (ws ++ vs) i = wordAt ws i :=
  List.getD_append ws vs _ i h

theorem wordAt_concat_length (ws : List KeyWord) (t : KeyWord) : wordAt (ws ++ [t]) ws.length = t := by
  simp [wordAt]

/-- A word that is made is never changed. -/
theorem wordAt_scheduleWords_of_le (key : Bytes 32) {m n i : Nat} (hmn : m ≤ n) (hi : i < 8 + m) :
    wordAt (scheduleWords key n) i = wordAt (scheduleWords key m) i := by
  induction n, hmn using Nat.le_induction with
  | base => rfl
  | succ n hmn ih =>
    have hlt : i < (scheduleWords key n).length := by
      rw [scheduleWords_length]
      omega
    rw [scheduleWords, wordAt_append_left _ hlt, ih]

/-- The word at the end of a schedule is the one made from the words before it. -/
theorem wordAt_scheduleWords_last (key : Bytes 32) (n : Nat) :
    wordAt (scheduleWords key (n + 1)) (8 + n) = nextWord (scheduleWords key n) (8 + n) := by
  conv_lhs => rw [scheduleWords, ← scheduleWords_length key n]
  rw [wordAt_concat_length, scheduleWords_length]

/-! ### The finished schedule -/

theorem expand_length (key : Bytes 32) : (expand key).length = 60 := scheduleWords_length key 52

/-- The first 8 words are the seed words. -/
theorem wordAt_expand_of_lt (key : Bytes 32) {i : Nat} (h : i < 8) : wordAt (expand key) i = wordAt (seedWords key) i :=
  wordAt_scheduleWords_of_le key (Nat.zero_le 52) h

/-- Word i, once 8 words are there, follows from words i - 8 and i - 1 of the same finished schedule. -/
theorem wordAt_expand_of_ge (key : Bytes 32) {i : Nat} (hlo : 8 ≤ i) (hhi : i < 60) :
    wordAt (expand key) i = nextWord (expand key) i := by
  obtain ⟨n, rfl⟩ := Nat.exists_eq_add_of_le hlo
  have hkept {m k : Nat} (hm : m ≤ 52) (hk : k < 8 + m) : wordAt (expand key) k = wordAt (scheduleWords key m) k :=
    wordAt_scheduleWords_of_le key hm hk
  rw [hkept (m := n + 1) (by omega) (by omega), wordAt_scheduleWords_last, nextWord, nextWord,
    hkept (m := n) (by omega) (by omega), hkept (m := n) (by omega) (by omega)]

/-- Byte j of seed word i is byte 4*i + j of the key (R152). -/
theorem keyWordByte_seedWords (key : Bytes 32) {i j : Nat} (hi : i < 8) (hj : j < 4) :
    keyWordByte (wordAt (seedWords key) i) j = key[4 * i + j] := by
  have hword : wordAt (seedWords key) i = ⟨key[4 * i], key[4 * i + 1], key[4 * i + 2], key[4 * i + 3]⟩ := by
    simp [wordAt, seedWords, hi]
  rw [hword]
  match j, hj with
  | 0, _ | 1, _ | 2, _ | 3, _ => rfl

theorem keyWordByte_expand_of_lt (key : Bytes 32) {i j : Nat} (hi : i < 8) (hj : j < 4) :
    keyWordByte (wordAt (expand key) i) j = key[4 * i + j] := by
  rw [wordAt_expand_of_lt key hi, keyWordByte_seedWords key hi hj]

/-! ### The transformed previous word (R151, R152) -/

/-- The table of round constants is 2^(k-1) for each k that a schedule of 60 words uses (R151). -/
theorem rcon_eq_shiftLeft : ∀ k < 8, 1 ≤ k → rcon k = (1 : Byte) <<< (k - 1) := by decide

/-- At a multiple of 8: rotate, substitute, then the round constant in byte 0. -/
theorem transformWord_of_mod_zero {i : Nat} (h : i % 8 = 0) (t : KeyWord) :
    transformWord i t = xorWord (subWord (rotWord t)) ⟨rcon (i / 8), 0, 0, 0⟩ := by
  simp [transformWord, h, xorWord]

theorem transformWord_of_mod_four {i : Nat} (h : i % 8 = 4) (t : KeyWord) : transformWord i t = subWord t := by
  simp [transformWord, h]

theorem transformWord_of_mod_other {i : Nat} (h0 : i % 8 ≠ 0) (h4 : i % 8 ≠ 4) (t : KeyWord) : transformWord i t = t := by
  simp [transformWord, h0, h4]

/-- Settles O43: every later word is the next word of the finished schedule, read in each case of R152. -/
theorem expandFollowsRecurrence : Obligations.ExpandFollowsRecurrence := by
  intro key w hw
  obtain rfl : w = wordAt (expand key) := funext hw
  refine ⟨expand_length key, fun i j hi hj => keyWordByte_expand_of_lt key hi hj, fun i hlo hhi => ?_⟩
  rw [wordAt_expand_of_ge key hlo hhi, nextWord]
  refine ⟨fun h0 => ?_, fun h4 => ?_, fun h0 h4 => ?_⟩
  · rw [transformWord_of_mod_zero h0, rcon_eq_shiftLeft (i / 8) (by omega) (by omega)]
  · rw [transformWord_of_mod_four h4]
  · rw [transformWord_of_mod_other h0 h4]

/-! ### The schedule as bytes (R153) -/

/-- Byte j of word i stands at 4*i + j. -/
theorem expandKey_getElem (key : Bytes 32) {i j k : Nat} (hj : j < 4) (hk : k < 240) (h : 4 * i + j = k) :
    (expandKey key)[k] = keyWordByte (wordAt (expand key) i) j := by
  have hi : k / 4 = i := by omega
  have hmod : k % 4 = j := by omega
  exact hi ▸ hmod ▸ scheduleBytes_getFin (expand key) ⟨k, hk⟩

/-- The first 32 bytes of RK are the key. -/
theorem expandKey_getFin_of_lt (key : Bytes 32) (n : Fin 32) : (expandKey key)[n.val] = key[n] := by
  have hn : 4 * (n.val / 4) + n.val % 4 = n.val := Nat.div_add_mod n.val 4
  calc (expandKey key)[n.val]
      = keyWordByte (wordAt (expand key) (n.val / 4)) (n.val % 4) := expandKey_getElem key (by omega) (by omega) hn
    _ = key[4 * (n.val / 4) + n.val % 4] := keyWordByte_expand_of_lt key (by omega) (by omega)
    _ = key[n] := by simp only [hn, Fin.getElem_fin]

/-- Settles O44: byte 4*c + j of round key r is byte 4*(4*r + c) + j of RK, hence of word 4*r + c. -/
theorem roundKeysAreScheduleColumns : Obligations.RoundKeysAreScheduleColumns := by
  refine fun key => ⟨fun r c j => ?_, roundKey_getFin (expandKey key), expandKey_getFin_of_lt key⟩
  calc (roundKey (expandKey key) r)[4 * c.val + j.val]
      = (expandKey key)[16 * r.val + (4 * c.val + j.val)] :=
        roundKey_getFin (expandKey key) r ⟨4 * c.val + j.val, by omega⟩
    _ = keyWordByte (wordAt (expand key) (4 * r.val + c.val)) j.val := expandKey_getElem key j.isLt _ (by omega)

/-! ### KEYEXP (R154) -/

theorem exec_keyexp_of_latched {s : State} (he : s.err ≠ 0) : exec .keyexp s = .next (s.respond 0x0F 0) :=
  unlessLatched_of_latched he

theorem exec_keyexp_of_clear {s : State} (he : s.err = 0) :
    exec .keyexp s = .next (State.respond 0 0 { s with rk := expandKey s.key, kvalid := true }) :=
  unlessLatched_of_clear he

/-- Settles O45: KEYEXP reads KEY and the latch only and changes neither, so that a second one writes the same RK. -/
theorem keyexpWritesSchedule : Obligations.KeyexpWritesSchedule := by
  refine ⟨rfl, otherWordsRefused_of_mem (r := ⟨"KEYEXP", 0x28000000, 0xFFFFFFFF⟩) (by decide), fun s =>
    ⟨exec_keyexp_of_latched, fun he => ⟨_, exec_keyexp_of_clear he, rfl, fun i j => ?_, _, exec_keyexp_of_clear he, rfl⟩⟩⟩
  exact expandKey_getElem s.key j.isLt (by omega) rfl

end Sys2Proof.Machine

/-!
SUPPORT and PROOFS. The single-block cipher and its commands (spec/43_block_cipher.md R160 to R165). Decryption takes the
steps of encryption back one by one. For the column mix that needs the product of R120 to be bilinear and associative, so
that two mixes in a row are one mix with the product of their matrices.
-/

namespace Sys2Proof.Machine

/-! ### The product is bilinear and associative (R121, R122) -/

theorem xor_xor_xor_comm (a b c d : Byte) : (a ^^^ b) ^^^ (c ^^^ d) = (a ^^^ c) ^^^ (b ^^^ d) := by ac_rfl

/-- Adding `z` once for each of two bits is adding it when the bits differ. -/
theorem ite_xor_ite (p q : Bool) (x y z : Byte) :
    (if p ^^ q then x ^^^ y ^^^ z else x ^^^ y) = (if p then x ^^^ z else x) ^^^ (if q then y ^^^ z else y) := by
  cases p <;> cases q
  · rfl
  · exact BitVec.xor_assoc x y z
  · change x ^^^ y ^^^ z = x ^^^ z ^^^ y
    ac_rfl
  · change x ^^^ y = (x ^^^ z) ^^^ (y ^^^ z)
    rw [xor_xor_xor_comm, BitVec.xor_self, BitVec.xor_zero]

theorem xtime_xor (a b : Byte) : xtime (a ^^^ b) = xtime a ^^^ xtime b := by
  unfold xtime
  rw [BitVec.getLsbD_xor, BitVec.shiftLeft_xor_distrib]
  exact ite_xor_ite ..

theorem iterate_xtime_xor (n : Nat) (a b : Byte) : xtime^[n] (a ^^^ b) = xtime^[n] a ^^^ xtime^[n] b := by
  induction n with
  | zero => rfl
  | succ n ih => simp only [Function.iterate_succ_apply', ih, xtime_xor]

theorem gfmulLoop_xor_right (n : Nat) (a b c : Byte) :
    gfmulLoop n 0 a (b ^^^ c) = gfmulLoop n 0 a b ^^^ gfmulLoop n 0 a c := by
  induction n with
  | zero => simp [gfmulLoop]
  | succ n ih =>
    simp only [gfmulLoop_succ, BitVec.getLsbD_xor, ih]
    exact ite_xor_ite ..

theorem gfmulLoop_xor_left (n : Nat) (a b c : Byte) :
    gfmulLoop n 0 (a ^^^ b) c = gfmulLoop n 0 a c ^^^ gfmulLoop n 0 b c := by
  induction n with
  | zero => simp [gfmulLoop]
  | succ n ih =>
    simp only [gfmulLoop_succ, iterate_xtime_xor, ih]
    split
    · exact xor_xor_xor_comm ..
    · rfl

theorem gfmul_xor (a b c : Byte) : gfmul a (b ^^^ c) = gfmul a b ^^^ gfmul a c := gfmulLoop_xor_right 8 a b c

theorem xor_gfmul (a b c : Byte) : gfmul (a ^^^ b) c = gfmul a c ^^^ gfmul b c := gfmulLoop_xor_left 8 a b c

@[simp] theorem zero_gfmul (x : Byte) : gfmul 0#8 x = 0#8 := by
  simpa using xor_gfmul x x x

/-- A map that is linear over GF(2) and commutes with the multiplication by x goes through the loop. -/
theorem map_gfmulLoop {f : Byte → Byte} (hxor : ∀ x y, f (x ^^^ y) = f x ^^^ f y) (hxtime : Function.Commute f xtime)
    (n : Nat) (a b : Byte) : f (gfmulLoop n 0 a b) = gfmulLoop n 0 (f a) b := by
  induction n with
  | zero => simpa [gfmulLoop] using hxor 0 0
  | succ n ih =>
    rw [gfmulLoop_succ, gfmulLoop_succ]
    split
    · rw [hxor, ih, (hxtime.iterate_right n).eq a]
    · exact ih

theorem xtime_gfmul (a b : Byte) : xtime (gfmul a b) = gfmul (xtime a) b :=
  map_gfmulLoop xtime_xor (Function.Commute.refl xtime) 8 a b

/-- Modulo 0x11B the polynomial 0x1B is x^8, hence a shift by eight places (R121). -/
theorem gfmul_reduction : ∀ a : Byte, gfmul a 0x1B = xtime^[8] a := by decide +kernel

/-- A shift of the second factor is a round of `xtime` on the first one, as long as no bit is shifted out. -/
theorem gfmulLoop_shiftLeft (a b : Byte) {n : Nat} (hn : n ≤ 7) :
    gfmulLoop (n + 1) 0 a (b <<< 1) = gfmulLoop n 0 (xtime a) b := by
  induction n with
  | zero => simp [gfmulLoop]
  | succ n ih =>
    have hbit : (b <<< 1).getLsbD (n + 1) = b.getLsbD n := by simp; omega
    rw [gfmulLoop_succ, ih (by omega), hbit, gfmulLoop_succ, Function.iterate_succ_apply]

theorem gfmul_xtime (a b : Byte) : gfmul a (xtime b) = xtime (gfmul a b) := by
  have hshift : gfmul a (b <<< 1) = gfmulLoop 7 0 (xtime a) b := gfmulLoop_shiftLeft a b le_rfl
  have hlast : gfmul (xtime a) b =
      if b.getLsbD 7 then gfmulLoop 7 0 (xtime a) b ^^^ xtime^[7] (xtime a) else gfmulLoop 7 0 (xtime a) b :=
    gfmulLoop_succ 7 0 (xtime a) b
  rw [xtime_gfmul, hlast, xtime]
  split
  · rw [gfmul_xor, hshift, gfmul_reduction, Function.iterate_succ_apply]
  · exact hshift

/-- Multiplication by `a` is linear and commutes with `xtime`, so it goes through the loop of `gfmul b c`. -/
theorem gfmul_assoc (a b c : Byte) : gfmul (gfmul a b) c = gfmul a (gfmul b c) :=
  (map_gfmulLoop (gfmul_xor a) (gfmul_xtime a) 8 b c).symm

/-! ### The inverse column mix (R142) -/

/-- Entry (r, k) of the product of two matrices over GF(2^8). -/
def productEntry (mx my : List (List Byte)) (r k : Nat) : Byte :=
  gfmul (matrixEntry mx r 0) (matrixEntry my 0 k) ^^^ gfmul (matrixEntry mx r 1) (matrixEntry my 1 k) ^^^
  gfmul (matrixEntry mx r 2) (matrixEntry my 2 k) ^^^ gfmul (matrixEntry mx r 3) (matrixEntry my 3 k)

/-- IMIX and MIX are inverse matrices. -/
theorem productEntry_mix : ∀ r < 4, ∀ k < 4,
    productEntry invMixMatrix mixMatrix r k = (if r = k then 1 else 0) ∧
    productEntry mixMatrix invMixMatrix r k = (if r = k then 1 else 0) := by decide +kernel

/-- Two mixes are one mix with the product of the matrices. -/
theorem mixWith_mixWith_getMatrixIndex (mx my : List (List Byte)) (s : Block) (r c : Nat) :
    (mixWith mx (mixWith my s))[matrixIndex r c] =
      gfmul (productEntry mx my (r % 4) 0) s[matrixIndex 0 c] ^^^
      gfmul (productEntry mx my (r % 4) 1) s[matrixIndex 1 c] ^^^
      gfmul (productEntry mx my (r % 4) 2) s[matrixIndex 2 c] ^^^
      gfmul (productEntry mx my (r % 4) 3) s[matrixIndex 3 c] := by
  simp only [mixWith_getMatrixIndex, productEntry, gfmul_xor, xor_gfmul, gfmul_assoc, Nat.reduceMod]
  ac_rfl

theorem mixWith_mixWith_of_inverse {mx my : List (List Byte)}
    (h : ∀ r < 4, ∀ k < 4, productEntry mx my r k = if r = k then 1 else 0) (s : Block) :
    mixWith mx (mixWith my s) = s := by
  refine block_ext fun r c => ?_
  have hr : r % 4 < 4 := Nat.mod_lt r (by decide)
  rw [mixWith_mixWith_getMatrixIndex, h _ hr 0 (by decide), h _ hr 1 (by decide), h _ hr 2 (by decide),
    h _ hr 3 (by decide), getMatrixIndex_congr s (Nat.mod_mod r 4).symm rfl]
  generalize r % 4 = k at hr
  match k, hr with
  | 0, _ | 1, _ | 2, _ | 3, _ => simp

theorem invMixColumns_mixColumns (s : Block) : invMixColumns (mixColumns s) = s :=
  mixWith_mixWith_of_inverse (fun r hr k hk => (productEntry_mix r hr k hk).1) s

theorem mixColumns_invMixColumns (s : Block) : mixColumns (invMixColumns s) = s :=
  mixWith_mixWith_of_inverse (fun r hr k hk => (productEntry_mix r hr k hk).2) s

/-! ### Folds over the rounds -/

/-- A sequence that makes one step for each entry of a list ends at the fold over the list. -/
theorem foldl_eq_of_forall_step {α β : Type} {f : β → α → β} {l : List α} (e : Nat → β)
    (h : ∀ k, ∀ hk : k < l.length, e (k + 1) = f (e k) l[k]) : l.foldl f (e 0) = e l.length := by
  induction l generalizing e with
  | nil => rfl
  | cons a l ih =>
    have hhead : e 1 = f (e 0) a := h 0 (Nat.zero_lt_succ _)
    rw [List.foldl_cons, ← hhead]
    exact ih (fun k => e (k + 1)) fun k hk => h (k + 1) (Nat.succ_lt_succ hk)

/-- Steps taken back one by one, the last one first, lead to the start. -/
theorem foldl_reverse_foldl {α β : Type} {f g : β → α → β} (h : ∀ s a, g (f s a) a = s) (l : List α) (s : β) :
    l.reverse.foldl g (l.foldl f s) = s := by
  induction l generalizing s with
  | nil => rfl
  | cons a l ih => rw [List.foldl_cons, List.reverse_cons, List.foldl_append, ih, List.foldl_cons, List.foldl_nil, h]

/-! ### The rounds (R160, R161) -/

theorem middleRounds_getElem : ∀ k, ∀ hk : k < 13, middleRounds[k]'hk = ⟨k + 1, by omega⟩ := by decide

theorem middleRounds_reverse_getElem : ∀ k, ∀ hk : k < 13, middleRounds.reverse[k]'hk = ⟨13 - k, by omega⟩ := by
  decide

/-- Substitution works byte by byte and the row shift only moves bytes. -/
theorem invSubBytes_invShiftRows (s : Block) : invSubBytes (invShiftRows s) = invShiftRows (invSubBytes s) :=
  bytes_ext fun n => by simp only [invSubBytes_getFin, invShiftRows_getFin]

/-- Settles O46: both directions are folds over the rounds 1 to 13, in ascending and in descending order. -/
theorem cipherFollowsRounds : Obligations.CipherFollowsRounds := by
  refine ⟨invSubBytes_invShiftRows, fun rk s e d he0 he hd14 hd => ⟨?_, ?_⟩⟩
  · have hfold : middleRounds.foldl (encryptRound rk) (e 0) = e 13 :=
      foldl_eq_of_forall_step e fun k hk => by rw [middleRounds_getElem k hk]; exact he k hk
    rw [encryptBlock, ← he0, hfold]
  · have hfold : middleRounds.reverse.foldl (decryptRound rk) (d 14) = d 1 :=
      foldl_eq_of_forall_step (fun k => d (14 - k)) fun k (hk : k < 13) => by
        have hprev : 14 - (k + 1) = 13 - k := by omega
        have hnext : 14 - k = 13 - k + 1 := by omega
        rw [middleRounds_reverse_getElem k hk, hprev, hnext]
        exact hd (13 - k) (by omega) (by omega)
    rw [decryptBlock, ← hd14, hfold]

/-! ### Decryption takes encryption back (R164) -/

theorem decryptRound_encryptRound (rk : Bytes 240) (s : Block) (r : Fin 15) :
    decryptRound rk (encryptRound rk s r) r = s := by
  rw [decryptRound, encryptRound, addRoundKey_addRoundKey, invMixColumns_mixColumns, invShiftRows_shiftRows,
    invSubBytes_subBytes]

theorem encryptRound_decryptRound (rk : Bytes 240) (s : Block) (r : Fin 15) :
    encryptRound rk (decryptRound rk s r) r = s := by
  rw [encryptRound, decryptRound, subBytes_invSubBytes, shiftRows_invShiftRows, mixColumns_invMixColumns,
    addRoundKey_addRoundKey]

theorem decryptBlock_encryptBlock (rk : Bytes 240) (s : Block) : decryptBlock rk (encryptBlock rk s) = s := by
  rw [decryptBlock, encryptBlock, addRoundKey_addRoundKey, invShiftRows_shiftRows, invSubBytes_subBytes,
    foldl_reverse_foldl (decryptRound_encryptRound rk), addRoundKey_addRoundKey]

theorem encryptBlock_decryptBlock (rk : Bytes 240) (s : Block) : encryptBlock rk (decryptBlock rk s) = s := by
  have hrounds := foldl_reverse_foldl (encryptRound_decryptRound rk) middleRounds.reverse
  rw [List.reverse_reverse] at hrounds
  rw [encryptBlock, decryptBlock, addRoundKey_addRoundKey, hrounds, subBytes_invSubBytes, shiftRows_invShiftRows,
    addRoundKey_addRoundKey]

/-! ### ENCBLK and DECBLK, check by check (R162, R163, R258) -/

/-- What the two commands have in common: a function of RK and BLK replaces BLK, behind the drop check and the key guard. -/
def cipherCommand (f : Bytes 240 → Block → Block) (w : Word) (s : State) : Result :=
  unlessLatched s <| requireKey w s <| complete 0 { s with blk := f s.rk s.blk }

theorem exec_encblk (s : State) : exec .encblk s = cipherCommand encryptBlock 0x29000000 s := rfl

theorem exec_decblk (s : State) : exec .decblk s = cipherCommand decryptBlock 0x2A000000 s := rfl

section

variable {f g : Bytes 240 → Block → Block} {w v : Word} {s : State}

theorem cipherCommand_of_latched (he : s.err ≠ 0) : cipherCommand f w s = .next (s.respond 0x0F 0) :=
  unlessLatched_of_latched he

theorem cipherCommand_of_invalid (he : s.err = 0) (hk : s.kvalid = false) :
    cipherCommand f w s = .next (State.respond 3 0 { s with err := 3, errcmd := w }) := calc
  cipherCommand f w s = raise .noKeySchedule w s := (unlessLatched_of_clear he).trans (requireKey_of_invalid hk)
  _ = _ := raise_of_clear .noKeySchedule he

theorem cipherCommand_of_valid (he : s.err = 0) (hk : s.kvalid = true) :
    cipherCommand f w s = .next (State.respond 0 0 { s with blk := f s.rk s.blk }) :=
  (unlessLatched_of_clear he).trans (requireKey_of_valid hk)

/-- A command keeps RK, KVALID and the latch, so that a second one whose function undoes the first restores BLK. -/
theorem cipherCommand_restores_blk (hgf : ∀ rk b, g rk (f rk b) = b) (he : s.err = 0) (hk : s.kvalid = true) :
    ∃ t u, cipherCommand f w s = .next t ∧ cipherCommand g v t = .next u ∧ u.blk = s.blk :=
  ⟨_, _, cipherCommand_of_valid he hk, cipherCommand_of_valid he hk, hgf s.rk s.blk⟩

end

/-- Settles O47: each direction takes the other's rounds back, as functions and hence as commands. -/
theorem decryptUndoesEncrypt : Obligations.DecryptUndoesEncrypt :=
  ⟨fun rk s => ⟨decryptBlock_encryptBlock rk s, encryptBlock_decryptBlock rk s⟩, fun _ he hk =>
    ⟨cipherCommand_restores_blk decryptBlock_encryptBlock he hk,
      cipherCommand_restores_blk encryptBlock_decryptBlock he hk⟩⟩

/-- Settles O48: both commands are cipher commands, read check by check. -/
theorem encblkAndDecblkTransformBlk : Obligations.EncblkAndDecblkTransformBlk := by
  refine ⟨rfl, rfl, otherWordsRefused_of_mem (r := ⟨"ENCBLK", 0x29000000, 0xFFFFFFFF⟩) (by decide),
    otherWordsRefused_of_mem (r := ⟨"DECBLK", 0x2A000000, 0xFFFFFFFF⟩) (by decide), fun s => ?_⟩
  rw [exec_encblk, exec_decblk]
  exact ⟨fun he => ⟨cipherCommand_of_latched he, cipherCommand_of_latched he⟩,
    fun he hk => ⟨cipherCommand_of_invalid he hk, cipherCommand_of_invalid he hk⟩,
    fun he hk => ⟨cipherCommand_of_valid he hk, cipherCommand_of_valid he hk⟩⟩

end Sys2Proof.Machine

/-!
SUPPORT and PROOFS. The padding codec and its commands (spec/44_padding_codec.md R170 to R175). A sequence unpads exactly
when it ends in a run of padding bytes, and `pad` makes such a run; the commands are the checks of R258 around the codec.
-/

namespace Sys2Proof.Machine

/-! ### Sequences that end in padding (R172) -/

/-- What R172 asks of a sequence whose claimed pad length is `p`: the length is 1 to 16, the sequence is that long, and its
last `p` bytes are all `p`. -/
def EndsInPadding (d : List Byte) (p : Byte) : Prop :=
  1 ≤ p.toNat ∧ p.toNat ≤ 16 ∧ p.toNat ≤ d.length ∧
    ∀ k, d.length - p.toNat ≤ k → k < d.length → d[k]? = some p

section

variable {d r : List Byte} {p : Byte}

theorem all_drop_beq_iff {m : Nat} :
    (d.drop m).all (· == p) = true ↔ ∀ k, m ≤ k → k < d.length → d[k]? = some p := by
  simp only [List.all_eq_true, beq_iff_eq, List.forall_mem_iff_getElem, List.length_drop, List.getElem_drop]
  constructor
  · intro h k hm hk
    have hkm := h (k - m) (by omega)
    simp only [Nat.add_sub_cancel' hm] at hkm
    rw [List.getElem?_eq_getElem hk, hkm]
  · intro h i hi
    have hk := h (m + i) (by omega) (by omega)
    rwa [List.getElem?_eq_getElem (by omega), Option.some_inj] at hk

/-- The two tests of `unpad` are R172's conditions. -/
theorem endsInPadding_iff : EndsInPadding d p ↔
    ¬ (p = 0 ∨ 16 < p.toNat ∨ d.length < p.toNat) ∧ (d.drop (d.length - p.toNat)).all (· == p) = true := by
  have hzero : p = 0 ↔ p.toNat = 0 := BitVec.toNat_inj.symm
  rw [all_drop_beq_iff, hzero, EndsInPadding]
  constructor
  · rintro ⟨h1, h16, hn, hall⟩
    exact ⟨by omega, hall⟩
  · rintro ⟨hp, hall⟩
    exact ⟨by omega, by omega, by omega, hall⟩

/-- The last byte of a sequence that ends in padding is its claimed pad length. -/
theorem EndsInPadding.getLast?_eq (h : EndsInPadding d p) : d.getLast? = some p := by
  obtain ⟨h1, _, hn, hall⟩ := h
  rw [List.getLast?_eq_getElem?]
  exact hall _ (by omega) (by omega)

theorem EndsInPadding.unpad_eq (h : EndsInPadding d p) : unpad d = some (d.take (d.length - p.toNat)) := by
  obtain ⟨hp, hall⟩ := endsInPadding_iff.1 h
  rw [unpad, h.getLast?_eq]
  exact (if_neg hp).trans (if_pos hall)

theorem unpad_nil : unpad [] = none := rfl

/-- A last byte that is no valid pad length, or whose run is broken, is the failure (R172). -/
theorem unpad_of_not_endsInPadding (hlast : d.getLast? = some p) (h : ¬ EndsInPadding d p) : unpad d = none := by
  rw [endsInPadding_iff, not_and] at h
  simp only [unpad, hlast]
  split
  · rfl
  · next hp => exact if_neg (h hp)

/-- R172 in one line. -/
theorem unpad_eq_some_iff :
    unpad d = some r ↔ ∃ p, EndsInPadding d p ∧ r = d.take (d.length - p.toNat) := by
  constructor
  · intro h
    cases hlast : d.getLast? with
    | none => simp [List.getLast?_eq_none_iff.1 hlast, unpad_nil] at h
    | some p =>
      by_cases hp : EndsInPadding d p
      · exact ⟨p, hp, Option.some_inj.1 (h.symm.trans hp.unpad_eq)⟩
      · simp [unpad_of_not_endsInPadding hlast hp] at h
  · rintro ⟨p, hp, rfl⟩
    exact hp.unpad_eq

end

/-! ### What `pad` appends (R170) -/

theorem padLength_pos (n : Nat) : 1 ≤ padLength n := by
  unfold padLength
  omega

theorem padLength_le (n : Nat) : padLength n ≤ 16 := Nat.sub_le ..

/-- A pad length is its own byte. -/
theorem padLength_toNat (n : Nat) : (BitVec.ofNat 8 (padLength n)).toNat = padLength n := by
  rw [BitVec.toNat_ofNat]
  exact Nat.mod_eq_of_lt ((padLength_le n).trans_lt (by decide))

@[simp] theorem pad_length (d : List Byte) : (pad d).length = d.length + padLength d.length := by simp [pad]

@[simp] theorem pad_take (d : List Byte) : (pad d).take d.length = d := List.take_left

/-- Every byte that `pad` appends is the pad length. -/
theorem pad_getElem? (d : List Byte) {k : Nat} (hlo : d.length ≤ k) (hhi : k < d.length + padLength d.length) :
    (pad d)[k]? = some (BitVec.ofNat 8 (padLength d.length)) := by
  rw [pad, List.getElem?_append_right hlo, List.getElem?_replicate, if_pos (by omega)]

theorem endsInPadding_pad (d : List Byte) : EndsInPadding (pad d) (BitVec.ofNat 8 (padLength d.length)) := by
  rw [EndsInPadding, padLength_toNat, pad_length, Nat.add_sub_cancel]
  exact ⟨padLength_pos _, padLength_le _, Nat.le_add_left .., fun _ => pad_getElem? d⟩

theorem unpad_pad (d : List Byte) : unpad (pad d) = some d := by
  rw [(endsInPadding_pad d).unpad_eq, padLength_toNat, pad_length, Nat.add_sub_cancel, pad_take]

/-- Settles O49: the shape of `pad`, and `unpad` through the sequences that end in padding. -/
theorem padAndUnpadFollowRules : Obligations.PadAndUnpadFollowRules := by
  constructor
  · rintro d p rfl
    refine ⟨padLength_pos _, padLength_le _, ?_, pad_take d, fun _ => pad_getElem? d⟩
    rw [pad_length, padLength]
    omega
  · intro d r
    rw [unpad_eq_some_iff]
    constructor
    · rintro ⟨p, hp, hr⟩
      have hlast := hp.getLast?_eq
      obtain ⟨h1, h16, hn, hall⟩ := hp
      exact ⟨p, hlast, h1, h16, hn, hall, hr⟩
    · rintro ⟨p, _, h1, h16, hn, hall, hr⟩
      exact ⟨p, ⟨h1, h16, hn, hall⟩, hr⟩

/-! ### Commands that replace OBUF (R26) -/

/-- A command that ends with `bs` as its result: OBUF holds `bs`, OLEN its length, and nothing else changes. -/
theorem complete_setOutput_result {s : State} {bs : List Byte} (h : bs.length < 65536) :
    ∃ t, complete 0 (s.setOutput bs) = .next t ∧ t.olen.toNat = bs.length ∧ t.output = bs ∧
      t = State.respond 0 0 { s with obuf := t.obuf, olen := t.olen } :=
  ⟨_, rfl, (BitVec.toNat_ofNat ..).trans (Nat.mod_eq_of_lt h), setOutput_output bs s h, rfl⟩

/-! ### PAD, check by check (R171, R258) -/

section

variable {s : State}

theorem exec_pad_of_latched (he : s.err ≠ 0) : exec .pad s = .next (s.respond 0x0F 0) :=
  unlessLatched_of_latched he

theorem exec_pad_of_gt (he : s.err = 0) (h : s.cap.toNat < s.ilen.toNat + padLength s.ilen.toNat) :
    exec .pad s = .next (State.respond 6 0 { s with err := 6, errcmd := 0x30000000 }) := calc
  exec .pad s = raise .overflow (encode .pad) s := (unlessLatched_of_clear he).trans (requireRoom_of_gt h)
  _ = _ := raise_of_clear .overflow he

theorem exec_pad_of_le (he : s.err = 0) (h : s.ilen.toNat + padLength s.ilen.toNat ≤ s.cap.toNat) :
    exec .pad s = complete 0 (s.setOutput (pad s.input)) :=
  (unlessLatched_of_clear he).trans (requireRoom_of_le h)

/-- A padded content that fits the capacity has a length that fits OLEN. -/
theorem pad_input_length_lt (h : s.ilen.toNat + padLength s.ilen.toNat ≤ s.cap.toNat) :
    (pad s.input).length < 65536 := by
  rw [pad_length, input_length]
  exact h.trans_lt s.cap.isLt

end

/-- Settles O51, check by check. -/
theorem padWritesPaddedInput : Obligations.PadWritesPaddedInput := by
  refine ⟨rfl, otherWordsRefused_of_mem (r := ⟨"PAD", 0x30000000, 0xFFFFFFFF⟩) (by decide), ?_⟩
  rintro s p rfl
  refine ⟨exec_pad_of_latched, exec_pad_of_gt, fun he h => ?_⟩
  obtain ⟨t, ht, holen, hout, hframe⟩ := complete_setOutput_result (s := s) (pad_input_length_lt h)
  rw [pad_length, input_length] at holen
  rw [pad, input_length] at hout
  exact ⟨t, (exec_pad_of_le he h).trans ht, holen, hout, hframe⟩

/-! ### UNPAD, check by check (R173, R255, R258) -/

section

variable {s : State} {r : List Byte}

theorem exec_unpad_of_latched (he : s.err ≠ 0) : exec .unpad s = .next (s.respond 0x0F 0) :=
  unlessLatched_of_latched he

theorem exec_unpad_of_none (he : s.err = 0) (h : unpad s.input = none) :
    exec .unpad s = .next (State.respond 5 0 { s with err := 5, errcmd := 0x31000000 }) := calc
  exec .unpad s = raise .paddingError (encode .unpad) s := by
    refine (unlessLatched_of_clear he).trans ?_
    rw [h]
  _ = _ := raise_of_clear .paddingError he

theorem exec_unpad_of_some (he : s.err = 0) (h : unpad s.input = some r) :
    exec .unpad s = complete 0 (s.setOutput r) := by
  refine (unlessLatched_of_clear he).trans ?_
  rw [h]

/-- The valid content of IBUF byte by byte (R25). -/
theorem input_getElem? {k : Nat} (hk : k < s.ilen.toNat) : s.input[k]? = some (s.ibuf.read k) := by
  rw [List.getElem?_eq_getElem (by rwa [input_length])]
  exact congrArg some (toList_getElem ..)

theorem input_getLast? (h : s.ilen.toNat ≠ 0) : s.input.getLast? = some (s.ibuf.read (s.ilen.toNat - 1)) := by
  rw [List.getLast?_eq_getElem?, input_length, input_getElem? (by omega)]

/-- R172's conditions on the content of IBUF, read from the bytes of IBUF. -/
theorem endsInPadding_input_iff {p : Byte} : EndsInPadding s.input p ↔
    1 ≤ p.toNat ∧ p.toNat ≤ 16 ∧ p.toNat ≤ s.ilen.toNat ∧
      ∀ k, s.ilen.toNat - p.toNat ≤ k → k < s.ilen.toNat → s.ibuf.read k = p := by
  have hbyte : ∀ k, k < s.ilen.toNat → (s.input[k]? = some p ↔ s.ibuf.read k = p) := fun k hk => by
    rw [input_getElem? hk, Option.some_inj]
  simp +contextual only [EndsInPadding, input_length, hbyte]

/-- With an empty IBUF there is no last byte; otherwise the last byte decides (R172). -/
theorem unpad_input_eq_none (h : s.ilen.toNat = 0 ∨ ¬ EndsInPadding s.input (s.ibuf.read (s.ilen.toNat - 1))) :
    unpad s.input = none := by
  by_cases hz : s.ilen.toNat = 0
  · rw [List.eq_nil_of_length_eq_zero ((input_length s).trans hz), unpad_nil]
  · exact unpad_of_not_endsInPadding (input_getLast? hz) (h.resolve_left hz)

end

/-- Settles O52: the causes of PaddingError are those for which the content of IBUF does not end in padding. -/
theorem unpadRemovesPadding : Obligations.UnpadRemovesPadding := by
  refine ⟨rfl, otherWordsRefused_of_mem (r := ⟨"UNPAD", 0x31000000, 0xFFFFFFFF⟩) (by decide), ?_⟩
  rintro s _ p rfl hlast
  refine ⟨exec_unpad_of_latched, fun he hbad => ?fails, fun he h1 h16 hn hall => ?succeeds⟩
  case fails =>
    refine exec_unpad_of_none he (unpad_input_eq_none (hbad.imp_right fun hbad hends => ?_))
    rw [← hlast, endsInPadding_input_iff] at hends
    obtain ⟨h1, h16, hn, hall⟩ := hends
    rcases hbad with rfl | hp | hp | ⟨k, hlo, hhi, hk⟩
    · exact absurd h1 (by decide)
    · omega
    · omega
    · exact hk (hall k hlo hhi)
  case succeeds =>
    have hr := (endsInPadding_input_iff.2 ⟨h1, h16, hn, hall⟩).unpad_eq
    rw [input_length] at hr
    have hlen : (s.input.take (s.ilen.toNat - p.toNat)).length = s.ilen.toNat - p.toNat := by simp
    obtain ⟨t, ht, holen, hout, hframe⟩ :=
      complete_setOutput_result (s := s) (hlen.trans_lt ((Nat.sub_le ..).trans_lt s.ilen.isLt))
    exact ⟨t, (exec_unpad_of_some he hr).trans ht, holen.trans hlen, hout, hframe⟩

/-! ### MOVO, and PAD, MOVO, UNPAD (R174) -/

section

variable {s : State}

theorem exec_clri_of_clear (he : s.err = 0) : exec .clri s = .next (s.clearInput.respond 0 0) :=
  unlessLatched_of_clear he

/-- APPO with an offset up to OLEN and room for the tail appends that tail (R212). -/
theorem exec_appo_of_le {a : BitVec 16} (he : s.err = 0) (ha : a.toNat ≤ s.olen.toNat)
    (hroom : s.ilen.toNat + (s.olen.toNat - a.toNat) ≤ s.cap.toNat) :
    exec (.appo a) s = .next ((s.appendInput (s.output.drop a.toNat)).respond 0 0) :=
  (unlessLatched_of_clear he).trans ((withIndex_of_lt (Nat.lt_succ_of_le ha)).trans (requireRoom_of_le hroom))

/-- MOVO makes a content of OBUF that fits the capacity the content of IBUF, in any state with no error latched: CLRI
leaves a canonical IBUF whatever stood there before. -/
theorem movo_moves_output (he : s.err = 0) (hfit : s.olen.toNat ≤ s.cap.toNat) :
    ∃ u v, exec .clri s = .next u ∧ exec (.appo 0) u = .next v ∧ v.input = s.output ∧ v.err = 0 := by
  have happo : exec (.appo 0) (s.clearInput.respond 0 0) =
      .next (((s.clearInput.respond 0 0).appendInput (s.output.drop 0)).respond 0 0) :=
    exec_appo_of_le he (Nat.zero_le _) (by simpa using hfit)
  refine ⟨_, _, exec_clri_of_clear he, happo, ?_, he⟩
  have hlen : s.output.length < 65536 := by
    rw [output_length]
    exact s.olen.isLt
  have hmoved : ((s.clearInput.respond 0 0).appendInput s.output).input = [] ++ s.output :=
    appendInput_input _ _ (clearInput_wf s) (by simpa using hlen)
  rw [respond_input, List.drop_zero, hmoved, List.nil_append]

end

/-- Settles O50: the round trip of the codec; a last byte or a run that R172 does not allow; and the commands, which carry
the padded content through OBUF to IBUF and back. -/
theorem unpadRecoversPadded : Obligations.UnpadRecoversPadded := by
  refine ⟨unpad_pad, fun d p hlast hbad => unpad_of_not_endsInPadding hlast ?rejects, fun s he hfit => ?recovers⟩
  case rejects =>
    rintro ⟨h1, h16, _, hall⟩
    rcases hbad with rfl | hp | ⟨k, b, hlo, hk, hb⟩
    · exact absurd h1 (by decide)
    · omega
    · obtain ⟨hlt, _⟩ := List.getElem?_eq_some_iff.1 hk
      exact hb (Option.some_inj.1 (hk.symm.trans (hall k hlo hlt)))
  case recovers =>
    have hroom : s.ilen.toNat + padLength s.ilen.toNat ≤ s.cap.toNat := by
      unfold padLength
      omega
    obtain ⟨t, ht, holen, hout, hframe⟩ := complete_setOutput_result (s := s) (pad_input_length_lt hroom)
    have herr : t.err = 0 := by rw [hframe]; exact he
    have hcap : t.olen.toNat ≤ t.cap.toNat := by
      rw [holen, hframe, pad_length, input_length]
      exact hroom
    obtain ⟨u, v, hu, hv, hin, hverr⟩ := movo_moves_output herr hcap
    have hunpad : unpad v.input = some s.input := by rw [hin, hout, unpad_pad]
    have hlen : s.input.length < 65536 := by
      rw [input_length]
      exact s.ilen.isLt
    exact ⟨t, u, v, _, (exec_pad_of_le he hroom).trans ht, hu, hv, exec_unpad_of_some hverr hunpad,
      setOutput_output s.input v hlen, hverr⟩

end Sys2Proof.Machine

/-!
SUPPORT and PROOFS. The chained mode and its commands (spec/45_chaining.md R180 to R184). In both directions the output is
one function applied, chunk by chunk, to the input chunk and to the chunk before it in the ciphertext, the chaining value
standing before chunk 0: `List.zipWith f (chunks m d) (cv :: chunks m c)` for the ciphertext `c`, which is the output of
encryption and the input of decryption. The final chaining value is the last chunk of `c`, if there is one.
-/

namespace Sys2Proof.Machine

/-! ### Sequences of whole chunks (R63) -/

@[simp] theorem unchunks_nil : unchunks [] = [] := rfl

@[simp] theorem unchunks_cons (b : Block) (bs : List Block) : unchunks (b :: bs) = b.toList ++ unchunks bs := rfl

theorem unchunks_length (bs : List Block) : (unchunks bs).length = 16 * bs.length := by
  simp [unchunks, List.length_flatMap, Nat.mul_comm]

theorem bytesOfList_toList_append (b : Block) (l : List Byte) : bytesOfList 16 (b.toList ++ l) = b :=
  bytes_ext fun i => (bytesOfList_getFin _ i).trans (by simp [List.getElem?_append_left])

theorem chunks_unchunks {m : Nat} {bs : List Block} (h : bs.length = m) : chunks m (unchunks bs) = bs := by
  subst h
  induction bs with
  | nil => rfl
  | cons b bs ih =>
    rw [unchunks_cons, List.length_cons, chunks, bytesOfList_toList_append, List.drop_left' b.length_toList, ih]

theorem chunkAt_succ (d : List Byte) (k : Nat) : chunkAt d (k + 1) = chunkAt (d.drop 16) k := by
  rw [chunkAt, chunkAt, List.drop_drop, Nat.mul_succ, Nat.add_comm]

theorem chunks_eq_map_chunkAt (m : Nat) (d : List Byte) : chunks m d = (List.range m).map (chunkAt d) := by
  induction m generalizing d with
  | zero => rfl
  | succ m ih =>
    rw [chunks, ih, List.range_succ_eq_map, List.map_cons, List.map_map]
    exact congrArg _ (List.map_congr_left fun k _ => (chunkAt_succ d k).symm)

@[simp] theorem chunks_length (m : Nat) (d : List Byte) : (chunks m d).length = m := by simp [chunks_eq_map_chunkAt]

theorem chunks_getElem {m k : Nat} {d : List Byte} (h : k < (chunks m d).length) : (chunks m d)[k] = chunkAt d k := by
  simp [chunks_eq_map_chunkAt]

/-- The chunk before chunk `k`, with the chaining value before chunk 0. -/
theorem cons_chunks_getElem {cv : Block} {m k : Nat} {c : List Byte} (h : k < (cv :: chunks m c).length) :
    (cv :: chunks m c)[k] = if k = 0 then cv else chunkAt c (k - 1) := by
  cases k with
  | zero => rfl
  | succ k => exact chunks_getElem _

theorem chunks_getLastD (cv : Block) (m : Nat) (c : List Byte) :
    (chunks m c).getLastD cv = if m = 0 then cv else chunkAt c (m - 1) := by
  cases m with
  | zero => rfl
  | succ m => simp [chunks_eq_map_chunkAt, List.range_succ]

/-- A chained sequence of chunks, read at chunk `k`. -/
theorem chunkAt_of_chained {f : Block → Block → Block} {cv : Block} {m : Nat} {d c o : List Byte}
    (h : chunks m o = List.zipWith f (chunks m d) (cv :: chunks m c)) {k : Nat} (hk : k < m) :
    chunkAt o k = f (chunkAt d k) (if k = 0 then cv else chunkAt c (k - 1)) := calc
  chunkAt o k = (chunks m o)[k]'(by simpa using hk) := (chunks_getElem _).symm
  _ = (List.zipWith f (chunks m d) (cv :: chunks m c))[k]'(by simp; omega) := by simp only [h]
  _ = _ := by rw [List.getElem_zipWith, chunks_getElem, cons_chunks_getElem]

/-! ### The loops (R180, R182) -/

/-- What encryption makes of a chunk and the chunk before it (R180). -/
def encryptLink (rk : Bytes 240) (x prev : Block) : Block := encryptBlock rk (xorBlock x prev)

/-- What decryption makes of a chunk and the chunk before it (R182). -/
def decryptLink (rk : Bytes 240) (x prev : Block) : Block := xorBlock (decryptBlock rk x) prev

section

variable (rk : Bytes 240) (prev : Block)

theorem cbcEncryptChunks_cons (d : Block) (ds : List Block) :
    cbcEncryptChunks rk prev (d :: ds) =
      (encryptLink rk d prev :: (cbcEncryptChunks rk (encryptLink rk d prev) ds).1,
        (cbcEncryptChunks rk (encryptLink rk d prev) ds).2) := rfl

theorem cbcEncryptChunks_length (ds : List Block) : (cbcEncryptChunks rk prev ds).1.length = ds.length := by
  induction ds generalizing prev with
  | nil => rfl
  | cons d ds ih => rw [cbcEncryptChunks_cons, List.length_cons, ih, List.length_cons]

/-- Each output chunk is made from the input chunk and the output chunk before it. -/
theorem cbcEncryptChunks_fst (ds : List Block) :
    (cbcEncryptChunks rk prev ds).1 = List.zipWith (encryptLink rk) ds (prev :: (cbcEncryptChunks rk prev ds).1) := by
  induction ds generalizing prev with
  | nil => rfl
  | cons d ds ih => exact congrArg _ (ih _)

theorem cbcEncryptChunks_snd (ds : List Block) :
    (cbcEncryptChunks rk prev ds).2 = (cbcEncryptChunks rk prev ds).1.getLastD prev := by
  induction ds generalizing prev with
  | nil => rfl
  | cons d ds ih => rw [cbcEncryptChunks_cons, List.getLastD_cons, ih]

theorem cbcDecryptChunks_cons (c : Block) (cs : List Block) :
    cbcDecryptChunks rk prev (c :: cs) =
      (decryptLink rk c prev :: (cbcDecryptChunks rk c cs).1, (cbcDecryptChunks rk c cs).2) := rfl

/-- Each output chunk is made from the input chunk and the input chunk before it. -/
theorem cbcDecryptChunks_eq (cs : List Block) :
    cbcDecryptChunks rk prev cs = (List.zipWith (decryptLink rk) cs (prev :: cs), cs.getLastD prev) := by
  induction cs generalizing prev with
  | nil => rfl
  | cons c cs ih => rw [cbcDecryptChunks_cons, ih, List.zipWith_cons_cons, List.getLastD_cons]

end

/-! ### The modes on bytes -/

section

variable {d : List Byte} {m : Nat} (rk : Bytes 240) (cv : Block) (h : d.length = 16 * m)
include h

theorem cbcEncrypt_eq :
    cbcEncrypt rk cv d =
      (unchunks (cbcEncryptChunks rk cv (chunks m d)).1, (cbcEncryptChunks rk cv (chunks m d)).2) := by
  rw [cbcEncrypt, h, Nat.mul_div_cancel_left m (by decide)]

theorem cbcEncrypt_length : (cbcEncrypt rk cv d).1.length = 16 * m := by
  rw [cbcEncrypt_eq rk cv h, unchunks_length, cbcEncryptChunks_length, chunks_length]

/-- The output of encryption as chunks is that of the loop. -/
theorem chunks_cbcEncrypt : chunks m (cbcEncrypt rk cv d).1 = (cbcEncryptChunks rk cv (chunks m d)).1 := by
  rw [cbcEncrypt_eq rk cv h]
  exact chunks_unchunks ((cbcEncryptChunks_length ..).trans (chunks_length m d))

theorem cbcEncrypt_chained :
    chunks m (cbcEncrypt rk cv d).1 =
      List.zipWith (encryptLink rk) (chunks m d) (cv :: chunks m (cbcEncrypt rk cv d).1) := by
  rw [chunks_cbcEncrypt rk cv h]
  exact cbcEncryptChunks_fst rk cv _

theorem cbcEncrypt_snd : (cbcEncrypt rk cv d).2 = (chunks m (cbcEncrypt rk cv d).1).getLastD cv := by
  rw [chunks_cbcEncrypt rk cv h, cbcEncrypt_eq rk cv h]
  exact cbcEncryptChunks_snd rk cv _

theorem cbcDecrypt_eq :
    cbcDecrypt rk cv d =
      (unchunks (List.zipWith (decryptLink rk) (chunks m d) (cv :: chunks m d)), (chunks m d).getLastD cv) := by
  rw [cbcDecrypt, h, Nat.mul_div_cancel_left m (by decide), cbcDecryptChunks_eq]

theorem cbcDecrypt_length : (cbcDecrypt rk cv d).1.length = 16 * m := by
  rw [cbcDecrypt_eq rk cv h, unchunks_length]
  simp

theorem cbcDecrypt_chained :
    chunks m (cbcDecrypt rk cv d).1 = List.zipWith (decryptLink rk) (chunks m d) (cv :: chunks m d) := by
  rw [cbcDecrypt_eq rk cv h]
  exact chunks_unchunks (by simp)

theorem cbcDecrypt_snd : (cbcDecrypt rk cv d).2 = (chunks m d).getLastD cv :=
  congrArg Prod.snd (cbcDecrypt_eq rk cv h)

end

/-- Settles O53: both outputs are chained, over the output of encryption and over the input of decryption. -/
theorem cbcFollowsChain : Obligations.CbcFollowsChain := by
  intro rk cv d m h
  constructor
  · intro o last ho
    obtain ⟨rfl, rfl⟩ : (cbcEncrypt rk cv d).1 = o ∧ (cbcEncrypt rk cv d).2 = last := Prod.mk.inj ho
    exact ⟨cbcEncrypt_length rk cv h, fun _ => chunkAt_of_chained (cbcEncrypt_chained rk cv h),
      (cbcEncrypt_snd rk cv h).trans (chunks_getLastD ..)⟩
  · intro o last ho
    obtain ⟨rfl, rfl⟩ : (cbcDecrypt rk cv d).1 = o ∧ (cbcDecrypt rk cv d).2 = last := Prod.mk.inj ho
    exact ⟨cbcDecrypt_length rk cv h, fun _ => chunkAt_of_chained (cbcDecrypt_chained rk cv h),
      (cbcDecrypt_snd rk cv h).trans (chunks_getLastD ..)⟩

/-! ### CBCENC and CBCDEC, check by check (R181, R183, R184, R258) -/

theorem exec_cbcenc (s : State) : exec .cbcenc s = chainBuffer cbcEncrypt 0x32000000 s := rfl

theorem exec_cbcdec (s : State) : exec .cbcdec s = chainBuffer cbcDecrypt 0x33000000 s := rfl

section

variable {f : Bytes 240 → Block → List Byte → List Byte × Block} {w : Word} {s : State}

theorem chainBuffer_of_latched (he : s.err ≠ 0) : chainBuffer f w s = .next (s.respond 0x0F 0) :=
  unlessLatched_of_latched he

theorem chainBuffer_of_invalid (he : s.err = 0) (hk : s.kvalid = false) :
    chainBuffer f w s = .next (State.respond 3 0 { s with err := 3, errcmd := w }) := calc
  chainBuffer f w s = raise .noKeySchedule w s := (unlessLatched_of_clear he).trans (requireKey_of_invalid hk)
  _ = _ := raise_of_clear .noKeySchedule he

/-- With no error latched and a key schedule, what is left is the length condition (R184). -/
theorem chainBuffer_of_valid (he : s.err = 0) (hk : s.kvalid = true) :
    chainBuffer f w s =
      if s.ilen.toNat % 16 ≠ 0 then raise .lengthError w s
      else complete 0 { s.setOutput (f s.rk s.cv s.input).1 with cv := (f s.rk s.cv s.input).2 } :=
  (unlessLatched_of_clear he).trans (requireKey_of_valid hk)

theorem chainBuffer_of_partial (he : s.err = 0) (hk : s.kvalid = true) (h : s.ilen.toNat % 16 ≠ 0) :
    chainBuffer f w s = .next (State.respond 4 0 { s with err := 4, errcmd := w }) := calc
  chainBuffer f w s = raise .lengthError w s := (chainBuffer_of_valid he hk).trans (if_pos h)
  _ = _ := raise_of_clear .lengthError he

/-- On whole chunks a mode whose output is as many chunks writes OBUF, OLEN and CV and nothing else. -/
theorem chainBuffer_of_whole (he : s.err = 0) (hk : s.kvalid = true) (h : s.ilen.toNat % 16 = 0)
    (hkeep : (f s.rk s.cv s.input).1.length = 16 * (s.ilen.toNat / 16)) :
    ∃ t, chainBuffer f w s = .next t ∧ t.olen = s.ilen ∧ t.output = (f s.rk s.cv s.input).1 ∧
      t.cv = (f s.rk s.cv s.input).2 ∧
      t = State.respond 0 0 { s with obuf := t.obuf, olen := t.olen, cv := t.cv } := by
  have hlen : (f s.rk s.cv s.input).1.length = s.ilen.toNat :=
    hkeep.trans (Nat.mul_div_cancel' (Nat.dvd_of_mod_eq_zero h))
  refine ⟨_, (chainBuffer_of_valid he hk).trans (if_neg (not_not_intro h)), ?olen, ?output, rfl, rfl⟩
  case olen => exact (congrArg (BitVec.ofNat 16) hlen).trans (BitVec.ofNat_toNat ..)
  case output => exact setOutput_output _ { s with cv := (f s.rk s.cv s.input).2 } (hlen.trans_lt s.ilen.isLt)

/-- A content of whole chunks, in the form in which the modes count them. -/
theorem input_length_of_whole (h : s.ilen.toNat % 16 = 0) : s.input.length = 16 * (s.ilen.toNat / 16) := by
  rw [input_length]
  omega

end

/-- Settles O55: both commands are the shared checks around a mode that keeps the length. -/
theorem cbcCommandsWriteOutputAndCv : Obligations.CbcCommandsWriteOutputAndCv := by
  refine ⟨rfl, rfl, otherWordsRefused_of_mem (r := ⟨"CBCENC", 0x32000000, 0xFFFFFFFF⟩) (by decide),
    otherWordsRefused_of_mem (r := ⟨"CBCDEC", 0x33000000, 0xFFFFFFFF⟩) (by decide), fun s => ?_⟩
  simp only [List.forall_mem_cons, exec_cbcenc, exec_cbcdec]
  exact ⟨⟨chainBuffer_of_latched, chainBuffer_of_invalid, chainBuffer_of_partial, fun he hk h =>
      chainBuffer_of_whole he hk h (cbcEncrypt_length s.rk s.cv (input_length_of_whole h))⟩,
    ⟨chainBuffer_of_latched, chainBuffer_of_invalid, chainBuffer_of_partial, fun he hk h =>
      chainBuffer_of_whole he hk h (cbcDecrypt_length s.rk s.cv (input_length_of_whole h))⟩,
    List.forall_mem_nil _⟩

end Sys2Proof.Machine

/-!
SUPPORT and PROOFS. The text codec and its commands (spec/46_text_codec.md R190 to R196). Both directions cut one bit
sequence into groups, of 6 bits or of 8; `packBits` writes numbers out as such a sequence, `groupValues` reads them back, and
an accumulator of k bits stands for the sequence `bitsOf k acc` in front of what is still to be read.
-/

namespace Sys2Proof.Machine

/-! ### Numbers as bit sequences -/

@[simp] theorem bitsOf_length : ∀ n v, (bitsOf n v).length = n
  | 0, _ => rfl
  | n + 1, v => congrArg Nat.succ (bitsOf_length n v)

/-- Bit i of the sequence, counted from the most significant end. -/
theorem bitsOf_getD {n i : Nat} (v : Nat) (hi : i < n) : (bitsOf n v).getD i false = v.testBit (n - 1 - i) := by
  induction n generalizing i with
  | zero => omega
  | succ n ih =>
    cases i with
    | zero => rfl
    | succ i =>
      rw [bitsOf, List.getD_cons_succ, ih (by omega)]
      congr 1
      omega

theorem bitsOf_congr {n v w : Nat} (h : ∀ i < n, v.testBit i = w.testBit i) : bitsOf n v = bitsOf n w := by
  induction n with
  | zero => rfl
  | succ n ih => rw [bitsOf, bitsOf, h n n.lt_succ_self, ih fun i hi => h i (hi.trans n.lt_succ_self)]

theorem bitsOf_mod_two_pow (n v : Nat) : bitsOf n (v % 2 ^ n) = bitsOf n v :=
  bitsOf_congr fun i hi => by simp [Nat.testBit_mod_two_pow, hi]

/-- The high bits of a number, then its low bits. -/
theorem bitsOf_add (m n v : Nat) : bitsOf (m + n) v = bitsOf m (v >>> n) ++ bitsOf n v := by
  induction m with
  | zero => rw [Nat.zero_add]; rfl
  | succ m ih => rw [Nat.succ_add, bitsOf, ih, bitsOf, Nat.testBit_shiftRight, Nat.add_comm n m, List.cons_append]

/-- A number shifted into an accumulator follows the bits that are there. -/
theorem bitsOf_shiftLeft_or {m n acc v : Nat} (hv : v < 2 ^ n) :
    bitsOf (m + n) ((acc <<< n) ||| v) = bitsOf m acc ++ bitsOf n v := by
  have hlow : bitsOf n ((acc <<< n) ||| v) = bitsOf n v :=
    bitsOf_congr fun i hi => by simp [Nat.testBit_or, Nat.testBit_shiftLeft, hi.not_ge]
  have hhigh : ((acc <<< n) ||| v) >>> n = acc := by
    rw [Nat.shiftRight_or_distrib, Nat.shiftLeft_shiftRight, Nat.shiftRight_eq_div_pow v,
      Nat.div_eq_of_lt hv, Nat.or_zero]
  rw [bitsOf_add, hhigh, hlow]

theorem bitsOf_zero (n : Nat) : bitsOf n 0 = List.replicate n false := by
  induction n with
  | zero => rfl
  | succ n ih => rw [bitsOf, ih, Nat.zero_testBit, List.replicate_succ]

theorem valueOf_concat (l : List Bool) (b : Bool) : valueOf (l ++ [b]) = 2 * valueOf l + b.toNat := by
  simp [valueOf]

theorem bitsOf_succ_eq_concat (n v : Nat) : bitsOf (n + 1) v = bitsOf n (v / 2) ++ [v.testBit 0] :=
  bitsOf_add n 1 v

theorem valueOf_bitsOf (n v : Nat) : valueOf (bitsOf n v) = v % 2 ^ n := by
  induction n generalizing v with
  | zero => rw [Nat.pow_zero, Nat.mod_one]; rfl
  | succ n ih =>
    rw [bitsOf_succ_eq_concat, valueOf_concat, ih, Nat.toNat_testBit, Nat.pow_succ', Nat.mod_mul]
    omega

theorem bitsOf_valueOf (l : List Bool) : bitsOf l.length (valueOf l) = l := by
  induction l using List.reverseRecOn with
  | nil => rfl
  | append_singleton l b ih =>
    have hdiv : (2 * valueOf l + b.toNat) / 2 = valueOf l := by have := b.toNat_lt; omega
    rw [List.length_append, List.length_singleton, bitsOf_succ_eq_concat, valueOf_concat, hdiv, ih]
    cases b <;> simp [Nat.testBit_zero]

theorem valueOf_lt (l : List Bool) : valueOf l < 2 ^ l.length := by
  rw [← bitsOf_valueOf l, valueOf_bitsOf, bitsOf_length]
  exact Nat.mod_lt _ (Nat.two_pow_pos _)

/-! ### Packing and grouping -/

/-- The numbers `vs` written out with `k` bits each. -/
def packBits (k : Nat) (vs : List Nat) : List Bool := vs.flatMap (bitsOf k)

theorem packBits_cons (k v : Nat) (vs : List Nat) : packBits k (v :: vs) = bitsOf k v ++ packBits k vs := rfl

@[simp] theorem packBits_length (k : Nat) (vs : List Nat) : (packBits k vs).length = k * vs.length := by
  induction vs with
  | nil => rfl
  | cons v vs ih =>
    rw [packBits_cons, List.length_append, bitsOf_length, ih, List.length_cons, Nat.mul_succ, Nat.add_comm]

/-- Bit p of packed numbers is a bit of number p / k; there is no bit 1 beyond the end. -/
theorem packBits_getD {k : Nat} (hk : 0 < k) (vs : List Nat) (p : Nat) :
    (packBits k vs).getD p false = (vs.getD (p / k) 0).testBit (k - 1 - p % k) := by
  induction vs generalizing p with
  | nil => exact (Nat.zero_testBit _).symm
  | cons v vs ih =>
    rw [packBits_cons]
    rcases Nat.lt_or_ge p k with hp | hp
    · rw [List.getD_append _ _ _ _ (by simpa using hp), bitsOf_getD v hp, Nat.div_eq_of_lt hp, Nat.mod_eq_of_lt hp]
      rfl
    · rw [List.getD_append_right _ _ _ _ (by simpa using hp), bitsOf_length, ih, Nat.mod_eq_sub_mod hp,
        Nat.div_eq_sub_div hk hp, List.getD_cons_succ]

@[simp] theorem groupValues_length (k : Nat) : ∀ g l, (groupValues k g l).length = g
  | 0, _ => rfl
  | g + 1, l => congrArg Nat.succ (groupValues_length k g (l.drop k))

theorem valueOf_take {k : Nat} {l : List Bool} (h : k ≤ l.length) :
    valueOf (l.take k) = numberOfBits k fun i => l.getD i false := by
  have htake : l.take k = (List.range k).map fun i => l.getD i false :=
    List.ext_getElem (by simpa using h) fun i h1 _ => by
      rw [List.length_take] at h1
      rw [List.getElem_take, List.getElem_map, List.getElem_range, List.getD_eq_getElem _ _ (by omega)]
  rw [htake, valueOf, List.foldl_map, numberOfBits]

/-- Group j of a sequence that holds g whole groups is the number whose bits start at place k * j. -/
theorem groupValues_getElem? {k g j : Nat} {l : List Bool} (hl : k * g ≤ l.length) (hj : j < g) :
    (groupValues k g l)[j]? = some (numberOfBits k fun i => l.getD (k * j + i) false) := by
  induction g generalizing j l with
  | zero => omega
  | succ g ih =>
    rw [Nat.mul_succ] at hl
    cases j with
    | zero =>
      rw [groupValues, List.getElem?_cons_zero, valueOf_take (by omega)]
      simp only [Nat.mul_zero, Nat.zero_add]
    | succ j =>
      rw [groupValues, List.getElem?_cons_succ, ih (by rw [List.length_drop]; omega) (by omega)]
      simp only [List.getD_eq_getElem?_getD, List.getElem?_drop, Nat.mul_succ, Nat.add_left_comm k, Nat.add_assoc]

theorem groupValues_append {k g : Nat} {a l : List Bool} (ha : a.length = k) :
    groupValues k (g + 1) (a ++ l) = valueOf a :: groupValues k g l := by
  rw [groupValues, List.take_left' ha, List.drop_left' ha]

theorem groupValues_lt {k g v : Nat} {l : List Bool} (hv : v ∈ groupValues k g l) : v < 2 ^ k := by
  induction g generalizing l with
  | zero => cases hv
  | succ g ih =>
    rcases List.mem_cons.1 hv with rfl | hv
    · exact (valueOf_lt _).trans_le (Nat.pow_le_pow_right (by decide) (List.length_take_le ..))
    · exact ih hv

/-- Packing the groups of a sequence of whole groups gives the sequence back. -/
theorem packBits_groupValues {k g : Nat} {l : List Bool} (hl : l.length = k * g) :
    packBits k (groupValues k g l) = l := by
  induction g generalizing l with
  | zero => exact (List.eq_nil_of_length_eq_zero hl).symm
  | succ g ih =>
    rw [Nat.mul_succ] at hl
    have hhead : bitsOf k (valueOf (l.take k)) = l.take k := by
      have h := bitsOf_valueOf (l.take k)
      rwa [List.length_take_of_le (by omega)] at h
    rw [groupValues, packBits_cons, hhead, ih (by rw [List.length_drop]; omega), List.take_append_drop]

/-! ### The alphabet (R190, R191) -/

theorem symbolValue_alpha : ∀ v < 64, symbolValue (alpha v) = some v := by decide

theorem symbolValue_padMark : symbolValue padMark = none := by decide

theorem alpha_ne_padMark {v : Nat} (hv : v < 64) : alpha v ≠ padMark := fun h => by
  simpa [h, symbolValue_padMark] using symbolValue_alpha v hv

theorem symbolValue_lt {ch : Byte} {v : Nat} (h : symbolValue ch = some v) : v < 64 := by
  unfold symbolValue at h
  split_ifs at h <;> · rw [Option.some_inj] at h; omega

/-! ### Symbols with zero fill (R192) -/

/-- The number of symbols of `n` bits. -/
def symbolCount (n : Nat) : Nat := (n + 5) / 6

/-- A bit sequence with the zeros that make its last group of 6 whole. -/
def zeroFill (l : List Bool) : List Bool := l ++ List.replicate (6 * symbolCount l.length - l.length) false

/-- The symbols of a bit sequence. -/
def symbolsOf (l : List Bool) : List Byte := (groupValues 6 (symbolCount l.length) (zeroFill l)).map alpha

/-- The bits of a byte sequence. -/
def byteBits (d : List Byte) : List Bool := packBits 8 (d.map BitVec.toNat)

theorem byteBits_nil : byteBits [] = [] := rfl

theorem byteBits_cons (b : Byte) (d : List Byte) : byteBits (b :: d) = bitsOf 8 b.toNat ++ byteBits d := rfl

@[simp] theorem byteBits_length (d : List Byte) : (byteBits d).length = 8 * d.length := by simp [byteBits]

theorem textEncode_eq (d : List Byte) :
    textEncode d = symbolsOf (byteBits d) ++ List.replicate (markCount (symbolsOf (byteBits d)).length) padMark := by
  rw [byteBits, packBits, List.flatMap_map]
  rfl

@[simp] theorem symbolsOf_length (l : List Bool) : (symbolsOf l).length = symbolCount l.length := by simp [symbolsOf]

theorem zeroFill_length (l : List Bool) : (zeroFill l).length = 6 * symbolCount l.length := by
  rw [zeroFill, List.length_append, List.length_replicate, symbolCount]
  omega

theorem zeroFill_getD (l : List Bool) (p : Nat) : (zeroFill l).getD p false = l.getD p false := by
  rcases Nat.lt_or_ge p l.length with hp | hp
  · rw [zeroFill, List.getD_append _ _ _ _ hp]
  · rw [zeroFill, List.getD_append_right _ _ _ _ hp, List.getD_eq_getElem?_getD,
      List.getElem?_getD_replicate_default_eq, List.getD_eq_default _ _ hp]

theorem symbolsOf_getElem? {l : List Bool} {j : Nat} (hj : j < symbolCount l.length) :
    (symbolsOf l)[j]? = some (alpha (numberOfBits 6 fun k => l.getD (6 * j + k) false)) := by
  rw [symbolsOf, List.getElem?_map, groupValues_getElem? (zeroFill_length l).ge hj]
  simp only [zeroFill_getD, Option.map_some]

/-- Six bits give a symbol, and the rest goes on as if it stood alone. -/
theorem symbolsOf_bitsOf_append (v : Nat) (l : List Bool) :
    symbolsOf (bitsOf 6 v ++ l) = alpha (v % 64) :: symbolsOf l := by
  have hcount : symbolCount (bitsOf 6 v ++ l).length = symbolCount l.length + 1 := by
    rw [List.length_append, bitsOf_length, symbolCount, symbolCount]
    omega
  have hfill : zeroFill (bitsOf 6 v ++ l) = bitsOf 6 v ++ zeroFill l := by
    rw [zeroFill, hcount, zeroFill, List.append_assoc, List.length_append, bitsOf_length]
    congr 3
    omega
  rw [symbolsOf, hcount, hfill, groupValues_append (bitsOf_length 6 v), valueOf_bitsOf]
  rfl

theorem symbolsOf_nil : symbolsOf [] = [] := rfl

/-- Fewer than 6 bits that are left over give one symbol (R192). -/
theorem symbolsOf_bitsOf {k : Nat} (acc : Nat) (hk0 : 0 < k) (hk : k < 6) :
    symbolsOf (bitsOf k acc) = [alpha ((acc <<< (6 - k)) % 64)] := by
  have hcount : symbolCount k = 1 := by rw [symbolCount]; omega
  have hfill : zeroFill (bitsOf k acc) = bitsOf 6 (acc <<< (6 - k)) ++ [] := by
    have h := bitsOf_shiftLeft_or (m := k) (acc := acc) (Nat.two_pow_pos (6 - k))
    rw [Nat.or_zero, Nat.add_sub_cancel' hk.le, bitsOf_zero] at h
    rw [zeroFill, bitsOf_length, hcount, List.append_nil, h]
  rw [symbolsOf, hfill, bitsOf_length, hcount, groupValues_append (bitsOf_length ..), valueOf_bitsOf]
  rfl

/-! ### The accumulator form of encoding (R192) -/

/-- A symbol taken from an accumulator of `k` bits. -/
theorem symbolsOf_bitsOf_append_of_ge {k : Nat} (acc : Nat) (l : List Bool) (hk : 6 ≤ k) :
    symbolsOf (bitsOf k acc ++ l) = alpha ((acc >>> (k - 6)) % 64) :: symbolsOf (bitsOf (k - 6) acc ++ l) := by
  have hsplit := bitsOf_add 6 (k - 6) acc
  rw [Nat.add_sub_cancel' hk] at hsplit
  rw [hsplit, List.append_assoc, symbolsOf_bitsOf_append]

/-- What `emitSymbols` emits are the symbols at the front, and the bits it leaves stand before the rest. -/
theorem emitSymbols_append_symbolsOf (acc k : Nat) (l : List Bool) :
    (emitSymbols acc k).1 ++ symbolsOf (bitsOf (emitSymbols acc k).2 acc ++ l) = symbolsOf (bitsOf k acc ++ l) := by
  unfold emitSymbols
  split_ifs with h12 h6
  · rw [symbolsOf_bitsOf_append_of_ge acc l (by omega : 6 ≤ k),
      symbolsOf_bitsOf_append_of_ge acc l (by omega : 6 ≤ k - 6), Nat.sub_sub]
    rfl
  · rw [symbolsOf_bitsOf_append_of_ge acc l h6]
    rfl
  · rfl

theorem emitSymbols_snd_lt {k : Nat} (acc : Nat) (hk : k < 18) : (emitSymbols acc k).2 < 6 := by
  unfold emitSymbols
  split_ifs <;> omega

theorem encodeLoop_cons (acc k : Nat) (b : Byte) (d : List Byte) :
    encodeLoop acc k (b :: d) = (emitSymbols ((acc <<< 8) ||| b.toNat) (k + 8)).1 ++
      encodeLoop (((acc <<< 8) ||| b.toNat) % 2 ^ (emitSymbols ((acc <<< 8) ||| b.toNat) (k + 8)).2)
        (emitSymbols ((acc <<< 8) ||| b.toNat) (k + 8)).2 d := rfl

/-- The loop with `k` bits in the accumulator emits the symbols of these bits and of the bytes to come. -/
theorem encodeLoop_eq {k : Nat} (acc : Nat) (hk : k < 6) (d : List Byte) :
    encodeLoop acc k d = symbolsOf (bitsOf k acc ++ byteBits d) := by
  induction d generalizing acc k with
  | nil =>
    rw [encodeLoop, byteBits_nil, List.append_nil]
    split_ifs with h0
    · exact (symbolsOf_bitsOf acc h0 hk).symm
    · rw [Nat.eq_zero_of_not_pos h0]
      exact symbolsOf_nil.symm
  | cons b d ih =>
    have hlt := emitSymbols_snd_lt ((acc <<< 8) ||| b.toNat) (by omega : k + 8 < 18)
    rw [encodeLoop_cons, ih _ hlt, bitsOf_mod_two_pow, emitSymbols_append_symbolsOf, bitsOf_shiftLeft_or b.isLt,
      byteBits_cons, List.append_assoc]

theorem textEncodeAcc_eq_textEncode (d : List Byte) : textEncodeAcc d = textEncode d := by
  rw [textEncode_eq, textEncodeAcc, encodeLoop_eq 0 (by decide)]
  rfl

/-! ### The text (R192) -/

theorem byteBits_getD (d : List Byte) (p : Nat) : (byteBits d).getD p false = bitOfBytes d p := by
  rw [byteBits, packBits_getD (by decide)]
  exact congrArg (Nat.testBit · _) (List.getD_map d 0 BitVec.toNat)

/-- Three bytes are four symbols, so that the marks follow from what is left of the last three. -/
theorem markCount_symbolCount (n : Nat) : markCount (symbolCount (8 * n)) = (3 - n % 3) % 3 := by
  have hcases : n % 3 = 0 ∨ n % 3 = 1 ∨ n % 3 = 2 := by omega
  rw [markCount, symbolCount]
  rcases hcases with h | h | h <;> · rw [h]; omega

theorem symbolCount_add_markCount (n : Nat) : symbolCount (8 * n) + (3 - n % 3) % 3 = textLength n := by
  rw [symbolCount, textLength]
  omega

@[simp] theorem textEncode_length (d : List Byte) : (textEncode d).length = textLength d.length := by
  rw [textEncode_eq, List.length_append, List.length_replicate, symbolsOf_length, byteBits_length,
    markCount_symbolCount, symbolCount_add_markCount]

/-- No symbol is a pad mark, so that all marks stand at the end. -/
theorem textEncode_count_padMark (d : List Byte) : (textEncode d).count padMark = (3 - d.length % 3) % 3 := by
  have hnone : padMark ∉ symbolsOf (byteBits d) := by
    rw [symbolsOf, List.mem_map]
    rintro ⟨v, hv, h⟩
    exact alpha_ne_padMark (groupValues_lt hv) h
  rw [textEncode_eq, List.count_append, List.count_eq_zero_of_not_mem hnone, List.count_replicate_self, Nat.zero_add,
    symbolsOf_length, byteBits_length, markCount_symbolCount]

theorem textEncode_getElem?_symbol {d : List Byte} {j : Nat} (hj : 6 * j < 8 * d.length) :
    (textEncode d)[j]? = some (alpha (numberOfBits 6 fun k => bitOfBytes d (6 * j + k))) := by
  have hcount : j < symbolCount (byteBits d).length := by
    rw [byteBits_length, symbolCount]
    omega
  rw [textEncode_eq, List.getElem?_append_left (by simpa using hcount), symbolsOf_getElem? hcount]
  simp only [byteBits_getD]

theorem textEncode_getElem?_padMark {d : List Byte} {j : Nat} (hlo : 8 * d.length ≤ 6 * j)
    (hhi : j < textLength d.length) : (textEncode d)[j]? = some padMark := by
  have hcount : symbolCount (8 * d.length) ≤ j := by
    rw [symbolCount]
    omega
  have htotal := symbolCount_add_markCount d.length
  rw [textEncode_eq, List.getElem?_append_right (by simpa using hcount), symbolsOf_length, byteBits_length,
    List.getElem?_replicate, markCount_symbolCount, if_pos (by omega)]

/-! ### Whole bytes (R194) -/

/-- The whole bytes of a bit sequence; an incomplete byte at the end is dropped. -/
def wholeBytes (l : List Bool) : List Byte := (groupValues 8 (l.length / 8) l).map (BitVec.ofNat 8)

theorem textDecode_eq (t : List Byte) : textDecode t = wholeBytes (packBits 6 (leadingValues t)) := rfl

@[simp] theorem wholeBytes_length (l : List Bool) : (wholeBytes l).length = l.length / 8 := by simp [wholeBytes]

theorem wholeBytes_getElem? {l : List Bool} {j : Nat} (hj : 8 * j + 8 ≤ l.length) :
    (wholeBytes l)[j]? = some (BitVec.ofNat 8 (numberOfBits 8 fun k => l.getD (8 * j + k) false)) := by
  rw [wholeBytes, List.getElem?_map, groupValues_getElem? (Nat.mul_div_le ..) (by omega)]
  rfl

theorem wholeBytes_of_lt {l : List Bool} (h : l.length < 8) : wholeBytes l = [] := by
  rw [wholeBytes, Nat.div_eq_of_lt h]
  rfl

theorem wholeBytes_bitsOf_append (v : Nat) (l : List Bool) :
    wholeBytes (bitsOf 8 v ++ l) = BitVec.ofNat 8 v :: wholeBytes l := by
  have hcount : (bitsOf 8 v ++ l).length / 8 = l.length / 8 + 1 := by
    rw [List.length_append, bitsOf_length]
    omega
  have hbyte : BitVec.ofNat 8 (v % 2 ^ 8) = BitVec.ofNat 8 v := by
    apply BitVec.eq_of_toNat_eq
    simp
  rw [wholeBytes, hcount, groupValues_append (bitsOf_length 8 v), valueOf_bitsOf, List.map_cons, hbyte, wholeBytes]

/-- The bytes come back from their bits, whatever incomplete byte follows. -/
theorem wholeBytes_byteBits_append (d : List Byte) {l : List Bool} (hl : l.length < 8) :
    wholeBytes (byteBits d ++ l) = d := by
  induction d with
  | nil => exact wholeBytes_of_lt hl
  | cons b d ih =>
    rw [byteBits_cons, List.append_assoc, wholeBytes_bitsOf_append, ih, BitVec.ofNat_toNat, BitVec.setWidth_eq]

/-! ### The leading alphabet characters (R194) -/

section

variable {ch : Byte} {t : List Byte}

theorem leadingValues_cons_of_some {v : Nat} (h : symbolValue ch = some v) :
    leadingValues (ch :: t) = v :: leadingValues t := by
  rw [leadingValues, h]

theorem leadingValues_cons_of_none (h : symbolValue ch = none) : leadingValues (ch :: t) = [] := by
  rw [leadingValues, h]

theorem leadingValues_eq_map (t : List Byte) :
    leadingValues t = (t.takeWhile fun ch => (symbolValue ch).isSome).map fun ch => (symbolValue ch).getD 0 := by
  induction t with
  | nil => rfl
  | cons ch t ih =>
    cases h : symbolValue ch with
    | none => simp [leadingValues_cons_of_none h, h]
    | some v => simp [leadingValues_cons_of_some h, h, ih]

theorem leadingValues_length (t : List Byte) :
    (leadingValues t).length = (t.takeWhile fun ch => (symbolValue ch).isSome).length := by
  rw [leadingValues_eq_map, List.length_map]

theorem leadingValues_length_le (t : List Byte) : (leadingValues t).length ≤ t.length := by
  rw [leadingValues_length]
  exact (List.takeWhile_prefix _).length_le

theorem leadingValues_getD {i : Nat} (hi : i < (leadingValues t).length) :
    (leadingValues t).getD i 0 = (symbolValue (t.getD i 0)).getD 0 := by
  have hlead := List.takeWhile_prefix (l := t) fun ch => (symbolValue ch).isSome
  have hit := hi.trans_le (leadingValues_length_le t)
  rw [leadingValues_length] at hi
  rw [leadingValues_eq_map, List.getD_eq_getElem _ _ (by simpa using hi), List.getElem_map, hlead.getElem hi,
    List.getD_eq_getElem _ _ hit]

/-- Symbols followed by pad marks have the values they were made of. -/
theorem leadingValues_alpha_padMark {vs : List Nat} (hvs : ∀ v ∈ vs, v < 64) (n : Nat) :
    leadingValues (vs.map alpha ++ List.replicate n padMark) = vs := by
  induction vs with
  | nil =>
    cases n with
    | zero => rfl
    | succ n => exact leadingValues_cons_of_none symbolValue_padMark
  | cons v vs ih =>
    obtain ⟨hv, hvs⟩ := List.forall_mem_cons.1 hvs
    rw [List.map_cons, List.cons_append, leadingValues_cons_of_some (symbolValue_alpha v hv), ih hvs]

/-! ### The accumulator form of decoding (R194) -/

/-- Fewer than 8 bits left in the accumulator when the scan stops are no byte (R194). -/
theorem wholeBytes_leftover {k : Nat} (acc : Nat) (hk : k < 8) : wholeBytes (bitsOf k acc ++ packBits 6 []) = [] :=
  wholeBytes_of_lt (by simpa using hk)

/-- The loop with `k` bits in the accumulator emits the whole bytes of these bits and of the symbols to come. -/
theorem decodeLoop_eq {k : Nat} (acc : Nat) (hk : k < 8) (t : List Byte) :
    decodeLoop acc k t = wholeBytes (bitsOf k acc ++ packBits 6 (leadingValues t)) := by
  induction t generalizing acc k with
  | nil => exact (wholeBytes_leftover acc hk).symm
  | cons ch t ih =>
    cases h : symbolValue ch with
    | none => rw [decodeLoop, h, leadingValues_cons_of_none h, wholeBytes_leftover acc hk]
    | some v =>
      have hbits := bitsOf_shiftLeft_or (m := k) (n := 6) (acc := acc) (symbolValue_lt h)
      rw [leadingValues_cons_of_some h, packBits_cons, ← List.append_assoc, ← hbits, decodeLoop, h]
      dsimp only
      split_ifs with h8
      · have hsplit := bitsOf_add 8 (k + 6 - 8) ((acc <<< 6) ||| v)
        rw [Nat.add_sub_cancel' h8] at hsplit
        rw [ih _ (by omega), bitsOf_mod_two_pow, hsplit, List.append_assoc, wholeBytes_bitsOf_append]
      · exact ih _ (by omega)

theorem textDecodeAcc_eq_textDecode (t : List Byte) : textDecodeAcc t = textDecode t :=
  decodeLoop_eq 0 (by decide) t

/-! ### The decoded bytes (R194) -/

theorem textDecode_length (t : List Byte) : (textDecode t).length = 6 * (leadingValues t).length / 8 := by
  rw [textDecode_eq, wholeBytes_length, packBits_length]

theorem textDecode_length_le (t : List Byte) : (textDecode t).length ≤ t.length := by
  have := leadingValues_length_le t
  rw [textDecode_length]
  omega

theorem packBits_leadingValues_getD {p : Nat} (hp : p < 6 * (leadingValues t).length) :
    (packBits 6 (leadingValues t)).getD p false = bitOfSymbols t p := by
  rw [packBits_getD (by decide), leadingValues_getD (by omega), bitOfSymbols]

theorem numberOfBits_congr {k : Nat} {f g : Nat → Bool} (h : ∀ i < k, f i = g i) :
    numberOfBits k f = numberOfBits k g :=
  List.foldl_ext _ _ _ fun v i hi => by rw [h i (List.mem_range.1 hi)]

theorem textDecode_getElem? {j : Nat} (hj : 8 * j + 8 ≤ 6 * (leadingValues t).length) :
    (textDecode t)[j]? = some (BitVec.ofNat 8 (numberOfBits 8 fun k => bitOfSymbols t (8 * j + k))) := by
  rw [textDecode_eq, wholeBytes_getElem? (by rwa [packBits_length]),
    numberOfBits_congr fun k hk => packBits_leadingValues_getD (by omega)]

end

/-- Settles O57: both directions through the groups of one bit sequence, and the loops through the same sequence. -/
theorem textCodecPacksBits : Obligations.TextCodecPacksBits := by
  constructor
  · exact fun d => ⟨textEncodeAcc_eq_textEncode d, textEncode_length d, textEncode_count_padMark d,
      fun _ => textEncode_getElem?_symbol, fun _ => textEncode_getElem?_padMark⟩
  · rintro t _ rfl
    rw [← leadingValues_length]
    exact ⟨textDecodeAcc_eq_textDecode t, textDecode_length t, fun _ => textDecode_getElem?⟩

/-! ### B64ENC and B64DEC, check by check (R193, R195, R258) -/

section

variable {s : State}

theorem exec_b64enc_of_latched (he : s.err ≠ 0) : exec .b64enc s = .next (s.respond 0x0F 0) :=
  unlessLatched_of_latched he

theorem exec_b64enc_of_gt (he : s.err = 0) (h : s.cap.toNat < textLength s.ilen.toNat) :
    exec .b64enc s = .next (State.respond 6 0 { s with err := 6, errcmd := 0x34000000 }) := calc
  exec .b64enc s = raise .overflow (encode .b64enc) s := (unlessLatched_of_clear he).trans (requireRoom_of_gt h)
  _ = _ := raise_of_clear .overflow he

/-- A text that fits the capacity becomes the result. -/
theorem exec_b64enc_of_le (he : s.err = 0) (h : textLength s.ilen.toNat ≤ s.cap.toNat) :
    ∃ t, exec .b64enc s = .next t ∧ t.olen.toNat = textLength s.ilen.toNat ∧ t.output = textEncode s.input ∧
      t = State.respond 0 0 { s with obuf := t.obuf, olen := t.olen } := by
  have hlen : (textEncode s.input).length = textLength s.ilen.toNat := by rw [textEncode_length, input_length]
  obtain ⟨t, ht, holen, hout, hframe⟩ := complete_setOutput_result (s := s) (hlen.trans_lt (h.trans_lt s.cap.isLt))
  exact ⟨t, (unlessLatched_of_clear he).trans ((requireRoom_of_le h).trans ht), holen.trans hlen, hout, hframe⟩

theorem exec_b64dec_of_latched (he : s.err ≠ 0) : exec .b64dec s = .next (s.respond 0x0F 0) :=
  unlessLatched_of_latched he

/-- The decoded bytes are fewer than the characters, so that they always fit (R195). -/
theorem exec_b64dec_of_clear (he : s.err = 0) :
    ∃ t, exec .b64dec s = .next t ∧ t.olen.toNat = (textDecode s.input).length ∧ t.output = textDecode s.input ∧
      t = State.respond 0 0 { s with obuf := t.obuf, olen := t.olen } := by
  have hle := textDecode_length_le s.input
  rw [input_length] at hle
  obtain ⟨t, ht, hresult⟩ := complete_setOutput_result (s := s) (hle.trans_lt s.ilen.isLt)
  exact ⟨t, (unlessLatched_of_clear he).trans ht, hresult⟩

end

/-- Settles O59, check by check. -/
theorem textCommandsWriteOutput : Obligations.TextCommandsWriteOutput := by
  refine ⟨rfl, rfl, otherWordsRefused_of_mem (r := ⟨"B64ENC", 0x34000000, 0xFFFFFFFF⟩) (by decide),
    otherWordsRefused_of_mem (r := ⟨"B64DEC", 0x35000000, 0xFFFFFFFF⟩) (by decide), ?_⟩
  rintro s _ rfl
  exact ⟨fun he => ⟨exec_b64enc_of_latched he, exec_b64dec_of_latched he⟩, exec_b64enc_of_gt, exec_b64enc_of_le,
    exec_b64dec_of_clear⟩

/-! ### Decoding an encoded sequence (R196) -/

/-- The values of the text are the groups of the filled bits, the fill is shorter than a byte, and so the whole bytes are
those that were encoded. -/
theorem textDecode_textEncode (d : List Byte) : textDecode (textEncode d) = d := by
  rw [textDecode_eq, textEncode_eq, symbolsOf, leadingValues_alpha_padMark fun _ => groupValues_lt,
    packBits_groupValues (zeroFill_length _), zeroFill]
  refine wholeBytes_byteBits_append d ?_
  rw [List.length_replicate, byteBits_length, symbolCount]
  omega

/-- Settles O58: the round trip of the codec, carried through OBUF and IBUF by MOVO. -/
theorem textRoundTrip : Obligations.TextRoundTrip := by
  refine ⟨fun d => ⟨textDecode_textEncode d, ?_⟩, fun s he hfit => ?_⟩
  · rw [textEncode_length, textLength, Nat.mul_mod_right]
  · obtain ⟨t, ht, holen, hout, hframe⟩ := exec_b64enc_of_le he hfit
    have herr : t.err = 0 := by rw [hframe]; exact he
    have hcap : t.olen.toNat ≤ t.cap.toNat := by
      rw [holen, hframe]
      exact hfit
    obtain ⟨u, v, hu, hv, hin, hverr⟩ := movo_moves_output herr hcap
    obtain ⟨x, hx, _, hxout, _⟩ := exec_b64dec_of_clear hverr
    exact ⟨t, u, v, x, ht, hu, hv, hx, by rw [hxout, hin, hout, textDecode_textEncode]⟩

end Sys2Proof.Machine

/-!
SUPPORT and PROOFS. The data movement commands (spec/47_data_movement.md R200 to R212). Every command of the chapter with an
index is the drop check, the range check and then its own effect; the buffer contents are read off the laws of the memories.
-/

namespace Sys2Proof

/-! ### The words with an address (R91) -/

/-- The format AI as its fields set side by side by OR (R91). -/
theorem encodeAI_eq_or (op : Byte) (a : BitVec 16) (b : Byte) :
    encodeAI op a b = (op.setWidth 32 <<< 24) ||| (a.setWidth 32 <<< 8) ||| b.setWidth 32 := by
  apply BitVec.eq_of_getLsbD_eq
  intro i hi
  simp only [BitVec.getLsbD_or, BitVec.getLsbD_shiftLeft, BitVec.getLsbD_setWidth]
  grind [encodeAI]

/-- The format A is the format AI with imm8 = 0 (R91). -/
theorem encodeA_eq_encodeAI (op : Byte) (a : BitVec 16) : encodeA op a = encodeAI op a 0 := rfl

/-- The format A as its fields set side by side by OR (R91). -/
theorem encodeA_eq_or (op : Byte) (a : BitVec 16) : encodeA op a = (op.setWidth 32 <<< 24) ||| (a.setWidth 32 <<< 8) := by
  rw [encodeA_eq_encodeAI, encodeAI_eq_or]
  exact BitVec.or_zero

theorem opcodeField_encodeAI (op : Byte) (a : BitVec 16) (b : Byte) : opcodeField (encodeAI op a b) = op := by
  rw [← BitVec.toNat_inj, opcodeField_toNat, encodeAI_toNat]
  omega

theorem addr16Field_encodeAI (op : Byte) (a : BitVec 16) (b : Byte) : addr16Field (encodeAI op a b) = a := by
  rw [← BitVec.toNat_inj, addr16Field_toNat, encodeAI_toNat]
  omega

theorem imm8Field_encodeAI (op : Byte) (a : BitVec 16) (b : Byte) : imm8Field (encodeAI op a b) = b := by
  rw [← BitVec.toNat_inj, imm8Field_toNat, encodeAI_toNat]
  omega

theorem mustBeZeroOk_encodeA (op : Byte) (a : BitVec 16) : mustBeZeroOk .A (encodeA op a) = true := by
  rw [mustBeZeroOk_A, encodeA_toNat]
  omega

section

variable {op : Byte}

/-- An opcode whose command takes imm8 decodes from the word of the format I. -/
theorem decode_encodeI {f : Byte → Instr} {n : Byte}
    (hcommand : ∀ {w}, opcodeField w = op → commandOf w = some (f (imm8Field w))) (hformat : (f n).format = .I) :
    decode (encodeI op n) = .ok (f n) := by
  have hc := hcommand (opcodeField_encodeI op n)
  rw [imm8Field_encodeI] at hc
  exact decode_of_commandOf hc (hformat ▸ mustBeZeroOk_encodeI op n)

/-- An opcode whose command takes addr16 decodes from the word of the format A. -/
theorem decode_encodeA {f : BitVec 16 → Instr} {a : BitVec 16}
    (hcommand : ∀ {w}, opcodeField w = op → commandOf w = some (f (addr16Field w))) (hformat : (f a).format = .A) :
    decode (encodeA op a) = .ok (f a) := by
  have hc := hcommand (opcodeField_encodeAI op a 0)
  rw [addr16Field_encodeAI] at hc
  exact decode_of_commandOf hc (hformat ▸ mustBeZeroOk_encodeA op a)

/-- An opcode whose command takes addr16 and imm8 decodes from the word of the format AI. -/
theorem decode_encodeAI {f : BitVec 16 → Byte → Instr} {a : BitVec 16} {b : Byte}
    (hcommand : ∀ {w}, opcodeField w = op → commandOf w = some (f (addr16Field w) (imm8Field w)))
    (hformat : (f a b).format = .AI) : decode (encodeAI op a b) = .ok (f a b) := by
  have hc := hcommand (opcodeField_encodeAI op a b)
  rw [addr16Field_encodeAI, imm8Field_encodeAI] at hc
  exact decode_of_commandOf hc (hformat ▸ mustBeZeroOk_AI _)

end

/-- The word of a command decodes to that command, format by format. -/
theorem decode_encode (i : Instr) : decode (encode i) = .ok i := by
  cases i with
  | rdreg n | pushi n => exact decode_encodeI (fun hop => by rw [commandOf, hop]; rfl) rfl
  | rdkey a | rdrk a | rdblk a | rdcv a | rdi a | rdo a | appo a =>
    exact decode_encodeA (fun hop => by rw [commandOf, hop]; rfl) rfl
  | wrkey a b | wrblk a b | wrcv a b => exact decode_encodeAI (fun hop => by rw [commandOf, hop]; rfl) rfl
  | gfmul a b => exact decode_encode_gfmul a b
  | ark r => exact decode_encode_ark r
  | _ => rfl

end Sys2Proof

namespace Sys2Proof.Machine

/-! ### Commands with an index, check by check (R200, R252, R258) -/

section

variable {s : State} {w : Word} {n : Nat} {a : BitVec 16}

theorem unlessLatched_withIndex_of_ge {k : Fin n → Result} (he : s.err = 0) (h : n ≤ a.toNat) :
    unlessLatched s (withIndex n a w s k) = .next (State.respond 2 0 { s with err := 2, errcmd := w }) := calc
  _ = raise .badAddress w s := (unlessLatched_of_clear he).trans (withIndex_of_ge h)
  _ = _ := raise_of_clear .badAddress he

theorem unlessLatched_withIndex_of_lt {k : Fin n → Result} (he : s.err = 0) (h : a.toNat < n) :
    unlessLatched s (withIndex n a w s k) = k ⟨a.toNat, h⟩ :=
  (unlessLatched_of_clear he).trans (withIndex_of_lt h)

/-- A read in range answers the byte zero-extended and changes nothing (R200). -/
theorem readByte_of_lt {f : Fin n → Byte} (he : s.err = 0) (h : a.toNat < n) :
    readByte n a w s f = .next (s.respond 0 (BitVec.ofNat 32 (f ⟨a.toNat, h⟩).toNat)) := by
  rw [BitVec.ofNat_toNat]
  exact unlessLatched_withIndex_of_lt he h

end

/-! ### The registers KEY, RK, BLK and CV (R201 to R207) -/

/-- Settles O25, check by check. -/
theorem wrkeyWritesKeyByte : Obligations.WrkeyWritesKeyByte := by
  intro a b s w hw
  obtain rfl : w = encode (.wrkey a b) := hw.trans (encodeAI_eq_or 0x10 a b).symm
  exact ⟨decode_encode (.wrkey a b), unlessLatched_of_latched, unlessLatched_withIndex_of_ge,
    unlessLatched_withIndex_of_lt⟩

/-- What the read commands of the four registers have in common with no error latched: the word is the command's own, and
an index from the register's length on is refused. -/
theorem readCommand_decodes_and_checks {i : Instr} {w : Word} {n : Nat} {a : BitVec 16} {s : State} {f : Fin n → Byte}
    (hword : encode i = w) (hexec : exec i s = readByte n a (encode i) s f) (he : s.err = 0) :
    decode w = .ok i ∧ (n ≤ a.toNat → exec i s = .next (State.respond 2 0 { s with err := 2, errcmd := w })) := by
  subst hword
  exact ⟨decode_encode i, fun h => hexec.trans (unlessLatched_withIndex_of_ge he h)⟩

/-- Settles O26: each of the four commands is a read of its register. -/
theorem readCommandsReturnRegisterBytes : Obligations.ReadCommandsReturnRegisterBytes := by
  simp only [Obligations.ReadCommandsReturnRegisterBytes, List.forall_mem_cons]
  refine ⟨⟨?_, ?_, ?_, ?_, List.forall_mem_nil _⟩, fun a s => ⟨fun he => ?latched, fun he => ?checks,
    readByte_of_lt, readByte_of_lt, readByte_of_lt, readByte_of_lt⟩⟩
  · exact otherWordsRefused_of_mem (r := ⟨"RDKEY", 0x11000000, 0xFF0000FF⟩) (by decide)
  · exact otherWordsRefused_of_mem (r := ⟨"RDRK", 0x12000000, 0xFF0000FF⟩) (by decide)
  · exact otherWordsRefused_of_mem (r := ⟨"RDBLK", 0x15000000, 0xFF0000FF⟩) (by decide)
  · exact otherWordsRefused_of_mem (r := ⟨"RDCV", 0x17000000, 0xFF0000FF⟩) (by decide)
  case latched =>
    refine ⟨?_, ?_, ?_, ?_, List.forall_mem_nil _⟩ <;> exact unlessLatched_of_latched he
  case checks =>
    exact ⟨readCommand_decodes_and_checks (encodeA_eq_or 0x11 a) rfl he,
      readCommand_decodes_and_checks (encodeA_eq_or 0x12 a) rfl he,
      readCommand_decodes_and_checks (encodeA_eq_or 0x15 a) rfl he,
      readCommand_decodes_and_checks (encodeA_eq_or 0x17 a) rfl he, List.forall_mem_nil _⟩

/-- Settles O27, check by check for each of the two registers. -/
theorem wrblkAndWrcvWriteOneByte : Obligations.WrblkAndWrcvWriteOneByte := by
  rintro a b s x rfl
  have hblk := encodeAI_eq_or 0x14 a b
  have hcv := encodeAI_eq_or 0x16 a b
  rw [BitVec.or_assoc] at hblk hcv
  refine ⟨hblk ▸ decode_encode (.wrblk a b), hcv ▸ decode_encode (.wrcv a b),
    fun he => ⟨unlessLatched_of_latched he, unlessLatched_of_latched he⟩, fun he h => ⟨?_, ?_⟩,
    fun he h => ⟨unlessLatched_withIndex_of_lt he h, unlessLatched_withIndex_of_lt he h⟩⟩
  · exact hblk ▸ unlessLatched_withIndex_of_ge he h
  · exact hcv ▸ unlessLatched_withIndex_of_ge he h

/-! ### PUSHI (R208) -/

section

variable {s : State} {b : Byte}

theorem exec_pushi_of_full (he : s.err = 0) (h : s.ilen = s.cap) :
    exec (.pushi b) s = .next (State.respond 6 0 { s with err := 6, errcmd := encode (.pushi b) }) := calc
  exec (.pushi b) s = raise .overflow (encode (.pushi b)) s := (unlessLatched_of_clear he).trans (if_pos h)
  _ = _ := raise_of_clear .overflow he

theorem exec_pushi_of_not_full (he : s.err = 0) (h : s.ilen ≠ s.cap) :
    exec (.pushi b) s = .next ((s.appendInput [b]).respond 0 0) :=
  (unlessLatched_of_clear he).trans (if_neg h)

end

/-- Settles O28: the append is one write at ILEN, and below the capacity the new length does not wrap. -/
theorem pushiAppendsOneByte : Obligations.PushiAppendsOneByte := by
  refine ⟨otherWordsRefused_of_mem (r := ⟨"PUSHI", 0x18000000, 0xFFFFFF00⟩) (by decide), fun b s w hw => ?_⟩
  obtain rfl : w = encode (.pushi b) := hw.trans (encodeI_eq_or 0x18 b).symm
  refine ⟨decode_encode (.pushi b), unlessLatched_of_latched, exec_pushi_of_full, fun he h =>
    ⟨_, exec_pushi_of_not_full he h, fun x hx => read_write_of_ne b hx s.ibuf, fun hwf =>
      ⟨read_write_self s.ilen.toNat b hwf, fun hroom => ?_⟩⟩⟩
  exact appendInput_input [b] s hwf (Nat.lt_of_le_of_lt hroom s.cap.isLt)

/-! ### CLRI and the refusal of RDI (R209, R210) -/

theorem exec_rdi_of_ge {s : State} {a : BitVec 16} (he : s.err = 0) (h : s.ilen.toNat ≤ a.toNat) :
    exec (.rdi a) s = .next (State.respond 2 0 { s with err := 2, errcmd := encode (.rdi a) }) :=
  unlessLatched_withIndex_of_ge he h

theorem eq_nil_of_below_zero {m : Memory} (h : m.below 0 = true) : m = [] := by
  cases m with
  | nil => rfl
  | cons c m => exact absurd (below_cons.1 h).1 (Nat.not_lt_zero c.1)

/-- On an empty IBUF of a state of the hardware there is nothing to clear. -/
theorem clearInput_of_empty {s : State} (hlen : s.ilen = 0) (hinv : Inv s) : s.clearInput = s := by
  have hbelow := hinv.ibuf_below
  rw [hlen] at hbelow
  rw [State.clearInput, ← eq_nil_of_below_zero hbelow, ← hlen]

/-- Settles O29: with ILEN 0 no index is in range. -/
theorem clriEmptiesInput : Obligations.ClriEmptiesInput := by
  refine ⟨rfl, otherWordsRefused_of_mem (r := ⟨"CLRI", 0x19000000, 0xFFFFFFFF⟩) (by decide), fun s =>
    ⟨unlessLatched_of_latched, fun he => ⟨_, exec_clri_of_clear he, rfl, rfl, rfl, rfl, fun hlen hinv => ?unchanged,
      fun a u hu => ?rdi⟩⟩⟩
  case unchanged => rw [clearInput_of_empty hlen hinv]
  case rdi =>
    rw [exec_rdi_of_ge (s := s.clearInput.respond 0 0) he (Nat.zero_le a.toNat)] at hu
    cases hu
    rfl

/-! ### RDI and RDO (R210, R211) -/

/-- A read of the valid content of a buffer: the index is in range exactly when the content has a byte there. -/
theorem readByte_of_lt_toList {m : Memory} {n : Nat} {a : BitVec 16} {w : Word} {s : State} (he : s.err = 0)
    (h : a.toNat < (m.toList n).length) :
    readByte n a w s (fun i => m.read i) = .next (s.respond 0 (BitVec.ofNat 32 (m.toList n)[a.toNat].toNat)) := by
  rw [toList_getElem]
  exact readByte_of_lt he (by rwa [toList_length] at h)

/-- Settles O30, check by check for each of the two buffers. -/
theorem rdiAndRdoReadValidBytes : Obligations.RdiAndRdoReadValidBytes := by
  refine ⟨otherWordsRefused_of_mem (r := ⟨"RDI", 0x1A000000, 0xFF0000FF⟩) (by decide),
    otherWordsRefused_of_mem (r := ⟨"RDO", 0x1B000000, 0xFF0000FF⟩) (by decide), ?_⟩
  rintro a s x rfl
  have hrdi := encodeA_eq_or 0x1A a
  have hrdo := encodeA_eq_or 0x1B a
  refine ⟨hrdi ▸ decode_encode (.rdi a), hrdo ▸ decode_encode (.rdo a),
    fun he => ⟨unlessLatched_of_latched he, unlessLatched_of_latched he⟩, fun he h => ?_, fun he h => ?_,
    readByte_of_lt_toList, readByte_of_lt_toList⟩
  · exact hrdi ▸ exec_rdi_of_ge he h
  · exact hrdo ▸ unlessLatched_withIndex_of_ge he h

/-! ### APPO (R212) -/

section

variable {s : State} {a : BitVec 16}

theorem exec_appo_of_gt (he : s.err = 0) (ha : a.toNat ≤ s.olen.toNat)
    (hroom : s.cap.toNat < s.ilen.toNat + (s.olen.toNat - a.toNat)) :
    exec (.appo a) s = .next (State.respond 6 0 { s with err := 6, errcmd := encode (.appo a) }) := calc
  exec (.appo a) s = raise .overflow (encode (.appo a)) s :=
    (unlessLatched_withIndex_of_lt he (Nat.lt_succ_of_le ha)).trans (requireRoom_of_gt hroom)
  _ = _ := raise_of_clear .overflow he

/-- The number of bytes APPO appends (R212). -/
theorem output_drop_length (s : State) (k : Nat) : (s.output.drop k).length = s.olen.toNat - k := by
  rw [List.length_drop, output_length]

/-- The tail of the valid content of OBUF byte by byte (R26). -/
theorem output_drop_getD {i k : Nat} (h : k < s.olen.toNat - i) : (s.output.drop i).getD k 0 = s.obuf.read (i + k) := by
  rw [List.getD_eq_getElem _ _ (by rwa [output_drop_length]), List.getElem_drop]
  exact toList_getElem ..

end

/-- Settles O31, check by check; the appended run is read off the run of writes. -/
theorem appoAppendsTail : Obligations.AppoAppendsTail := by
  refine ⟨otherWordsRefused_of_mem (r := ⟨"APPO", 0x1C000000, 0xFF0000FF⟩) (by decide), fun a s w n hw hn => ?_⟩
  obtain rfl : w = encode (.appo a) := hw.trans (encodeA_eq_or 0x1C a).symm
  have hlen : (s.output.drop a.toNat).length = n := (output_drop_length s a.toNat).trans hn.symm
  refine ⟨decode_encode (.appo a), unlessLatched_of_latched, unlessLatched_withIndex_of_ge,
    fun he ha hroom => exec_appo_of_gt he ha (hn ▸ hroom), fun he ha hroom =>
      ⟨s.ibuf.writeList s.ilen.toNat (s.output.drop a.toNat), ?runs, fun hwf =>
        ⟨fun x hx => ?outside, fun k hk => ?inside, ?content⟩⟩⟩
  case runs =>
    rw [BitVec.ofNat_add, BitVec.ofNat_toNat, BitVec.setWidth_eq, ← hlen]
    exact exec_appo_of_le he ha (hn ▸ hroom)
  case outside => rw [read_writeList _ _ _ hwf, hlen, if_neg (by omega)]
  case inside =>
    rw [read_writeList _ _ _ hwf, hlen, if_pos (by omega), Nat.add_sub_cancel_left, output_drop_getD (hn ▸ hk)]
  case content => exact hlen ▸ toList_writeList s.ilen.toNat (s.output.drop a.toNat) hwf

end Sys2Proof.Machine

/-!
SUPPORT and PROOFS. The system commands (spec/48_system_commands.md R220 to R224). They are exempt from the drop check, so
each meaning is one response from any state; RDREG alone can raise.
-/

namespace Sys2Proof

/-- No two commands share a word (R91, R93). -/
theorem encode_injective : Function.Injective encode := fun i j h =>
  Except.ok.inj (calc
    .ok i = decode (encode i) := (decode_encode i).symm
    _ = decode (encode j) := by rw [h]
    _ = .ok j := decode_encode j)

namespace Machine

/-! ### RDREG (R224) -/

/-- STATUS has KVALID in bit 8 and ERR in the four bits below, so that the OR of the two is their sum (R31). -/
theorem statusWord_toNat (s : State) : (statusWord s).toNat = (if s.kvalid then 256 else 0) + s.err.toNat := by
  have herr : s.err.toNat < 2 ^ 8 := Nat.lt_trans s.err.isLt (by decide)
  have hsetWidth : (s.err.setWidth 32).toNat = s.err.toNat := BitVec.toNat_setWidth_of_le (by decide)
  rw [statusWord, BitVec.toNat_or, hsetWidth]
  cases s.kvalid with
  | false => exact (Nat.zero_or _).trans (Nat.zero_add _).symm
  | true => exact (Nat.two_pow_add_eq_or_of_lt herr 1).symm

section

variable {n : Byte} {s : State}

/-- The number of a control register: its content is the response and the latch is not looked at. -/
theorem exec_rdreg_of_some {r : CtrlReg} (h : ctrlReg n = some r) :
    exec (.rdreg n) s = .next (s.respond 0 (readCtrl r s)) := by
  change execRdreg n s = _
  rw [execRdreg, h]
  rfl

/-- Any other number is out of range (R252). -/
theorem exec_rdreg_of_gt (h : 5 < n.toNat) : exec (.rdreg n) s = raise .badAddress (encode (.rdreg n)) s := by
  change execRdreg n s = _
  rw [execRdreg, (ctrlReg_eq_none_iff n).2 h]

end

/-- Settles O24: each of the six numbers names its register, and any other number is a BadAddress that the latch takes only
when it is empty. -/
theorem rdregReadsControlRegisters : Obligations.RdregReadsControlRegisters := by
  refine ⟨otherWordsRefused_of_mem (r := ⟨"RDREG", 0x03000000, 0xFFFFFF00⟩) (by decide), fun n s => ?_⟩
  have hword : encode (.rdreg n) = 0x03000000 ||| n.setWidth 32 := encodeI_eq_or 0x03 n
  simp only [BitVec.ofNat_toNat]
  refine ⟨hword, ?id, ?status, ?errcmd, ?ilen, ?olen, ?cap, fun h he => ?raised, fun h he => ?latched⟩
  case id => rintro rfl; exact exec_rdreg_of_some (r := .id) rfl
  case status => rintro rfl; exact ⟨_, exec_rdreg_of_some (r := .status) rfl, statusWord_toNat s⟩
  case errcmd => rintro rfl; exact exec_rdreg_of_some (r := .errcmd) rfl
  case ilen => rintro rfl; exact exec_rdreg_of_some (r := .ilen) rfl
  case olen => rintro rfl; exact exec_rdreg_of_some (r := .olen) rfl
  case cap => rintro rfl; exact exec_rdreg_of_some (r := .cap) rfl
  case raised => exact hword ▸ (exec_rdreg_of_gt h).trans (raise_of_clear .badAddress he)
  case latched => exact (exec_rdreg_of_gt h).trans (raise_of_latched .badAddress he)

/-! ### NOP, SRESET and CLRERR (R221 to R223) -/

theorem exec_nop (s : State) : exec .nop s = .next (s.respond 0 0) := rfl

theorem exec_sreset (s : State) : exec .sreset s = .next (s.resetCore.respond 0 0) := rfl

theorem exec_clrerr (s : State) : exec .clrerr s = .next (s.clearLatch.respond 0 0) := rfl

/-- Settles O21: NOP only responds, and its word is the word 0, which it shares with no other command. -/
theorem nopChangesNothing : Obligations.NopChangesNothing :=
  ⟨otherWordsRefused_of_mem (r := ⟨"NOP", 0x00000000, 0xFFFFFFFF⟩) (by decide), exec_nop,
    fun _ => encode_injective.eq_iff (b := .nop)⟩

/-- The byte at an index of a register after reset (R36), in the indexed form the statements use. -/
theorem replicate_getFin {n : Nat} (b : Byte) (i : Fin n) : (Vector.replicate n b)[i] = b :=
  Vector.getElem_replicate i.isLt

/-- Settles O22: SRESET responds from the state the hardware reset leaves. -/
theorem sresetClearsEverything : Obligations.SresetClearsEverything := by
  refine ⟨rfl, otherWordsRefused_of_mem (r := ⟨"SRESET", 0x01000000, 0xFFFFFFFF⟩) (by decide), fun s =>
    ⟨_, exec_sreset s, replicate_getFin 0, replicate_getFin 0, replicate_getFin 0, replicate_getFin 0,
      rfl, rfl, rfl, rfl, rfl, rfl, rfl, rfl, rfl, rfl, fun u hu => ?_⟩⟩
  rw [hardwareReset_eq] at hu
  cases hu
  rfl

/-- Settles O23: CLRERR responds from the state with the latch cleared. -/
theorem clrerrClearsOnlyTheLatch : Obligations.ClrerrClearsOnlyTheLatch :=
  ⟨rfl, otherWordsRefused_of_mem (r := ⟨"CLRERR", 0x02000000, 0xFFFFFFFF⟩) (by decide), exec_clrerr⟩

end Machine

end Sys2Proof

/-!
SUPPORT and PROOFS. Errors (spec/60_exceptions.md R250 to R262). `RaiseCause` names what makes a command raise each error;
the checks of R258 are gone through once, in `exec_of_cause` and `exec_completes`, and what a step answers to a word follows.
-/

namespace Sys2Proof

/-! ### A word from its own fields (R91, R93) -/

/-- The fields of `w` that a format has, put behind an opcode; the other bits are 0. -/
def Format.assemble (op : Byte) (w : Word) : Format → Word
  | .N => encodeN op
  | .I => encodeI op (imm8Field w)
  | .A => encodeA op (addr16Field w)
  | .AI => encodeAI op (addr16Field w) (imm8Field w)
  | .G => encodeG op (aField w) (imm8Field w)

/-- The command a word selects has the operands that stand in the word. -/
theorem encode_of_commandOf {w : Word} {i : Instr} (h : commandOf w = some i) :
    encode i = i.format.assemble (opcodeField w) w := by
  rw [opcodeField_of_commandOf h]
  unfold commandOf at h
  split at h <;> cases h <;> rfl

/-- The fields of a format and its must-be-zero bits are the whole word. -/
theorem assemble_eq_self {f : Format} {w : Word} (hz : mustBeZeroOk f w = true) : f.assemble (opcodeField w) w = w := by
  apply BitVec.eq_of_toNat_eq
  cases f with
  | N =>
    rw [mustBeZeroOk_N] at hz
    rw [Format.assemble, encodeN_toNat, opcodeField_toNat]
    omega
  | I =>
    rw [mustBeZeroOk_I] at hz
    rw [Format.assemble, encodeI_toNat, opcodeField_toNat, imm8Field_toNat]
    omega
  | A =>
    rw [mustBeZeroOk_A] at hz
    rw [Format.assemble, encodeA_toNat, opcodeField_toNat, addr16Field_toNat]
    omega
  | AI =>
    rw [Format.assemble, encodeAI_toNat, opcodeField_toNat, addr16Field_toNat, imm8Field_toNat]
    omega
  | G =>
    rw [mustBeZeroOk_G] at hz
    rw [Format.assemble, encodeG_toNat, opcodeField_toNat, aField_toNat, imm8Field_toNat]
    omega

/-- The word of a decoded command is the issued word, so that ERRCMD holds what the host issued (R29, R259). -/
theorem encode_eq_of_decode {w : Word} {i : Instr} (h : decode w = .ok i) : encode i = w := by
  obtain ⟨hc, hz⟩ := decode_ok_cases h
  exact (encode_of_commandOf hc).trans (assemble_eq_self hz)

namespace Machine

/-! ### The completion codes (R250) -/

theorem ErrorCode.cc_toNat (e : ErrorCode) : e.cc.toNat = e.code.toNat := by
  cases e <;> rfl

theorem ErrorCode.cc_injective {e e' : ErrorCode} (h : e.cc = e'.cc) : e = e' := by
  cases e <;> cases e' <;> revert h <;> decide

theorem ErrorCode.cc_ne_ccOk (e : ErrorCode) : e.cc ≠ ccOk := by
  cases e <;> decide

theorem ErrorCode.cc_ne_ccDropped (e : ErrorCode) : e.cc ≠ ccDropped := by
  cases e <;> decide

/-! ### The causes (R252 to R256) -/

/-- The commands that look at KVALID, ARK only with a round number in range (R253, R258). -/
def NeedsKeySchedule (i : Instr) : Prop :=
  i = .encblk ∨ i = .decblk ∨ i = .cbcenc ∨ i = .cbcdec ∨ ∃ r : Byte, r.toNat ≤ 14 ∧ i = .ark r

/-- What makes the command `i` raise each error in the state `s`, the checks that come first in R258 having passed. -/
def RaiseCause (i : Instr) (s : State) : ErrorCode → Prop
  | .illegalCommand => False
  | .badAddress => operandOutOfRange i s
  | .noKeySchedule => s.kvalid = false ∧ NeedsKeySchedule i
  | .lengthError => s.kvalid = true ∧ (i = .cbcenc ∨ i = .cbcdec) ∧ s.ilen.toNat % 16 ≠ 0
  | .paddingError => i = .unpad ∧ unpad s.input = none
  | .overflow => resultTooLong i s

/-- R256 writes out the length of a padded content, which R170 gives by the pad length. -/
theorem resultTooLong_pad_iff {s : State} :
    resultTooLong .pad s ↔ s.cap.toNat < s.ilen.toNat + padLength s.ilen.toNat := by
  rw [resultTooLong, padLength]
  omega

/-- The command has executed and responded with code 0; what else it wrote is left open. -/
def Completes (s : State) (r : Result) : Prop :=
  ∃ val t, r = complete val t ∧ t.port = s.port ∧ t.resps = s.resps

section

variable {i : Instr} {s : State} {e : ErrorCode}

/-- The only check an exempt command makes is RDREG's on the register number (R262). -/
theorem RaiseCause.eq_rdreg_of_exempt (hop : i.opcode.toNat < 4) (h : RaiseCause i s e) :
    e = .badAddress ∧ ∃ n : Byte, 5 < n.toNat ∧ i = .rdreg n := by
  cases i with
  | nop | sreset | clrerr => cases e <;> simp [RaiseCause, NeedsKeySchedule, operandOutOfRange, resultTooLong] at h
  | rdreg n =>
    cases e with
    | badAddress => exact ⟨rfl, n, h, rfl⟩
    | _ => simp [RaiseCause, NeedsKeySchedule, resultTooLong] at h
  | _ => exact absurd hop (by simp [Instr.opcode])

/-! ### Each check raises its error (R258) -/

theorem exec_of_operandOutOfRange (he : s.err = 0) (h : operandOutOfRange i s) :
    exec i s = raise .badAddress (encode i) s := by
  cases i with
  | rdreg n => exact exec_rdreg_of_gt h
  | wrkey a _ | rdkey a | rdrk a | wrblk a _ | rdblk a | wrcv a _ | rdcv a | rdi a | rdo a | appo a | ark a =>
    exact (unlessLatched_of_clear he).trans (withIndex_of_ge h)
  | _ => exact h.elim

theorem exec_of_resultTooLong (he : s.err = 0) (h : resultTooLong i s) : exec i s = raise .overflow (encode i) s := by
  cases i with
  | pushi b => exact (unlessLatched_of_clear he).trans (if_pos h)
  | appo a =>
    obtain ⟨hoff, hroom⟩ := h
    exact (unlessLatched_withIndex_of_lt he (Nat.lt_succ_of_le hoff)).trans (requireRoom_of_gt hroom)
  | pad => exact (unlessLatched_of_clear he).trans (requireRoom_of_gt (resultTooLong_pad_iff.1 h))
  | b64enc => exact (unlessLatched_of_clear he).trans (requireRoom_of_gt h)
  | _ => exact h.elim

/-- A command that is not dropped raises the error it has a cause for. -/
theorem exec_of_cause (hd : s.err = 0 ∨ i.opcode.toNat < 4) (h : RaiseCause i s e) :
    exec i s = raise e (encode i) s := by
  rcases hd with he | hop
  · cases e with
    | illegalCommand => exact h.elim
    | badAddress => exact exec_of_operandOutOfRange he h
    | noKeySchedule =>
      obtain ⟨hk, hneeds⟩ := h
      obtain rfl | rfl | rfl | rfl | ⟨r, hr, rfl⟩ := hneeds
      case inr.inr.inr.inr => exact (exec_ark_of_lt he (Nat.lt_succ_of_le hr)).trans (requireKey_of_invalid hk)
      all_goals exact (unlessLatched_of_clear he).trans (requireKey_of_invalid hk)
    | lengthError =>
      obtain ⟨hk, rfl | rfl, hlen⟩ := h <;> exact (chainBuffer_of_valid he hk).trans (if_pos hlen)
    | paddingError =>
      obtain ⟨rfl, hpad⟩ := h
      exact (exec_unpad_of_none he hpad).trans (raise_of_clear .paddingError he).symm
    | overflow => exact exec_of_resultTooLong he h
  · obtain ⟨rfl, n, hn, rfl⟩ := h.eq_rdreg_of_exempt hop
    exact exec_rdreg_of_gt hn

/-! ### With no cause the command completes -/

theorem exec_rdreg_completes {n : Byte} (h : ¬ RaiseCause (.rdreg n) s .badAddress) : Completes s (exec (.rdreg n) s) := by
  obtain ⟨r, hr⟩ := Option.ne_none_iff_exists'.1 (mt (ctrlReg_eq_none_iff n).1 h)
  exact ⟨_, _, exec_rdreg_of_some hr, rfl, rfl⟩

theorem exec_completes_of_clear (he : s.err = 0) (hno : ∀ e, ¬ RaiseCause i s e) : Completes s (exec i s) := by
  have hkvalid (h : NeedsKeySchedule i) : s.kvalid = true :=
    Bool.eq_true_of_not_eq_false fun hk => hno .noKeySchedule ⟨hk, h⟩
  cases i with
  | rdreg n => exact exec_rdreg_completes (hno .badAddress)
  | wrkey a _ | rdkey a | rdrk a | wrblk a _ | rdblk a | wrcv a _ | rdcv a | rdi a | rdo a =>
    exact ⟨_, _, unlessLatched_withIndex_of_lt he (Nat.lt_of_not_le (hno .badAddress)), rfl, rfl⟩
  | appo a =>
    have hoff : a.toNat ≤ s.olen.toNat := Nat.le_of_not_lt (hno .badAddress)
    exact ⟨_, _, exec_appo_of_le he hoff (Nat.le_of_not_lt fun hroom => hno .overflow ⟨hoff, hroom⟩), rfl, rfl⟩
  | ark r =>
    have hr : r.toNat ≤ 14 := Nat.le_of_not_lt (hno .badAddress)
    exact ⟨_, _, exec_ark_of_valid he (Nat.lt_succ_of_le hr) (hkvalid (by simp [NeedsKeySchedule, hr])), rfl, rfl⟩
  | encblk | decblk => exact ⟨_, _, cipherCommand_of_valid he (hkvalid (by simp [NeedsKeySchedule])), rfl, rfl⟩
  | cbcenc | cbcdec =>
    have hk := hkvalid (by simp [NeedsKeySchedule])
    exact ⟨_, _, (chainBuffer_of_valid he hk).trans (if_neg fun hlen => hno .lengthError ⟨hk, by simp, hlen⟩), rfl, rfl⟩
  | pushi b => exact ⟨_, _, exec_pushi_of_not_full he (hno .overflow), rfl, rfl⟩
  | pad => exact ⟨_, _, exec_pad_of_le he (Nat.le_of_not_lt (mt resultTooLong_pad_iff.2 (hno .overflow))), rfl, rfl⟩
  | unpad =>
    obtain ⟨r, hr⟩ := Option.ne_none_iff_exists'.1 fun hpad => hno .paddingError ⟨rfl, hpad⟩
    exact ⟨_, _, exec_unpad_of_some he hr, rfl, rfl⟩
  | b64enc =>
    exact ⟨_, _, (unlessLatched_of_clear he).trans (requireRoom_of_le (Nat.le_of_not_lt (hno .overflow))), rfl, rfl⟩
  | nop | sreset | clrerr => exact ⟨_, _, rfl, rfl, rfl⟩
  | clri | gfmul _ _ | subb | isubb | shrow | ishrow | mixc | imixc | keyexp | b64dec =>
    exact ⟨_, _, unlessLatched_of_clear he, rfl, rfl⟩

/-- A command that is not dropped and has no cause to raise completes. -/
theorem exec_completes (hd : s.err = 0 ∨ i.opcode.toNat < 4) (hno : ∀ e, ¬ RaiseCause i s e) :
    Completes s (exec i s) := by
  rcases hd with he | hop
  · exact exec_completes_of_clear he hno
  · cases i with
    | nop | sreset | clrerr => exact ⟨_, _, rfl, rfl, rfl⟩
    | rdreg n => exact exec_rdreg_completes (hno .badAddress)
    | _ => exact absurd hop (by simp [Instr.opcode])

/-! ### The response tells the cause -/

theorem raise_response_iff {w : Word} {e' : ErrorCode} :
    (∃ t, raise e' w s = .next t ∧ t.resps = s.resps ++ [⟨e.cc, 0⟩]) ↔ e' = e := by
  constructor
  · rintro ⟨t, ht, hresps⟩
    rw [raise_eq_next] at ht
    subst ht
    simp only [respond_resps, latchError_resps, List.append_cancel_left_eq, List.cons.injEq, Response.mk.injEq] at hresps
    exact ErrorCode.cc_injective hresps.1.1
  · rintro rfl
    exact ⟨_, rfl, by simp⟩

theorem Completes.no_error_response {r : Result} (h : Completes s r) :
    ¬ ∃ t, r = .next t ∧ t.resps = s.resps ++ [⟨e.cc, 0⟩] := by
  obtain ⟨val, u, rfl, -, hu⟩ := h
  rintro ⟨t, ht, hresps⟩
  rw [complete_eq_next] at ht
  subst ht
  rw [respond_resps, hu] at hresps
  simp only [List.append_cancel_left_eq, List.cons.injEq, Response.mk.injEq] at hresps
  exact ErrorCode.cc_ne_ccOk e hresps.1.1.symm

/-- A command that is not dropped answers with an error code exactly when it has the cause of that error. -/
theorem exec_response_iff (hd : s.err = 0 ∨ i.opcode.toNat < 4) :
    (∃ t, exec i s = .next t ∧ t.resps = s.resps ++ [⟨e.cc, 0⟩]) ↔ RaiseCause i s e := by
  constructor
  · intro h
    by_cases hcause : ∃ e', RaiseCause i s e'
    · obtain ⟨e', he'⟩ := hcause
      rw [exec_of_cause hd he', raise_response_iff] at h
      exact h ▸ he'
    · exact absurd h (exec_completes hd (not_exists.1 hcause)).no_error_response
  · intro h
    rw [exec_of_cause hd h, raise_response_iff]

end

/-- Settles O15: the cause of BadAddress is the operand. -/
theorem badAddressCauses : Obligations.BadAddressCauses := fun _ _ hd =>
  exec_response_iff (e := .badAddress) hd

/-- Settles O16: the cause of NoKeySchedule is the key guard of the five commands. -/
theorem noKeyScheduleCauses : Obligations.NoKeyScheduleCauses := fun _ _ he =>
  exec_response_iff (e := .noKeySchedule) (.inl he)

/-- Settles O17: the causes of the three errors, one by one. -/
theorem lengthPaddingOverflowCauses : Obligations.LengthPaddingOverflowCauses := fun _ _ he =>
  ⟨exec_response_iff (e := .lengthError) (.inl he), exec_response_iff (e := .paddingError) (.inl he),
    exec_response_iff (e := .overflow) (.inl he)⟩

/-! ### What a step answers to a word (R251, R257) -/

/-- Why the word `w` raises `e` in `s`: it is no command, or it is one with a cause. -/
def WordCause (w : Word) (s : State) (e : ErrorCode) : Prop :=
  (e = .illegalCommand ∧ ∃ d, decode w = .error d) ∨ ∃ i, decode w = .ok i ∧ RaiseCause i s e

section

variable {s : State} {w : Word} {rest : List HostEvent} {e : ErrorCode}

theorem WordCause.cases_of_exempt (hop : (opcodeField w).toNat < 4) (h : WordCause w s e) :
    (e = .illegalCommand ∧ ∃ d, decode w = .error d) ∨
      (e = .badAddress ∧ ∃ n : Byte, 5 < n.toNat ∧ decode w = .ok (.rdreg n)) := by
  rcases h with hillegal | ⟨i, hi, hcause⟩
  · exact .inl hillegal
  · rw [opcodeField_of_commandOf (decode_ok_cases hi).1] at hop
    obtain ⟨rfl, n, hn, rfl⟩ := hcause.eq_rdreg_of_exempt hop
    exact .inr ⟨rfl, n, hn, hi⟩

/-- A word that is not dropped raises, with the word itself for ERRCMD, or completes. -/
theorem step_of_not_dropped (hp : s.port = .command w :: rest) (hd : s.err = 0 ∨ (opcodeField w).toNat < 4) :
    (∃ e, WordCause w s e ∧ step s = raise e w s) ∨ Completes s (step s) := by
  cases hw : decode w with
  | error d =>
    refine .inl ⟨.illegalCommand, .inl ⟨rfl, d, hw⟩, ?_⟩
    rw [step_of_decode_error hp hw, rejectWord_of_not_dropped fun ⟨he, hop⟩ => hd.elim he (Nat.not_lt_of_le hop)]
  | ok i =>
    rw [opcodeField_of_commandOf (decode_ok_cases hw).1] at hd
    rw [step_of_decode_ok hp hw]
    by_cases hcause : ∃ e, RaiseCause i s e
    · obtain ⟨e, he⟩ := hcause
      exact .inl ⟨e, .inr ⟨i, hw, he⟩, by rw [exec_of_cause hd he, encode_eq_of_decode hw]⟩
    · exact .inr (exec_completes hd (not_exists.1 hcause))

/-- The three ways a command word can end. -/
theorem step_command_cases (hp : s.port = .command w :: rest) :
    step s = drop s ∨
    (∃ e, (s.err = 0 ∨ (opcodeField w).toNat < 4) ∧ WordCause w s e ∧ step s = raise e w s) ∨
    Completes s (step s) := by
  by_cases hd : s.err ≠ 0 ∧ 4 ≤ (opcodeField w).toNat
  · exact .inl (step_of_dropped hp hd.1 hd.2)
  · have hd : s.err = 0 ∨ (opcodeField w).toNat < 4 := (not_and_or.1 hd).imp of_not_not Nat.lt_of_not_le
    rcases step_of_not_dropped hp hd with ⟨e, he, hstep⟩ | hcompletes
    · exact .inr (.inl ⟨e, hd, he, hstep⟩)
    · exact .inr (.inr hcompletes)

end

/-- Taking an error leaves all data and both buffers alone (R260). -/
theorem latchError_respond_sameData (e : ErrorCode) (w : Word) (s : State) :
    SameData s ((s.latchError e w).respond e.cc 0) :=
  { latchError_sameData s e w with }

/-- Settles O10: a word that is not dropped raises, with a code that is not Dropped, or completes. -/
theorem latchedCommandsAreDropped : Obligations.LatchedCommandsAreDropped := by
  intro s w rest hp he
  rw [← opcodeField_toNat]
  refine ⟨fun hop => step_of_dropped hp he hop, fun hop => ⟨fun i hi => step_of_decode_ok hp hi, ?_⟩⟩
  rcases step_of_not_dropped hp (.inr hop) with ⟨e, -, hstep⟩ | ⟨val, t, hstep, -, hresps⟩
  · exact ⟨_, ⟨e.cc, 0⟩, hstep, by rw [respond_resps, latchError_resps], ErrorCode.cc_ne_ccDropped e⟩
  · exact ⟨_, ⟨ccOk, val⟩, hstep, by rw [respond_resps, hresps], show ccOk ≠ ccDropped by decide⟩

/-- Settles O11: of the three ways a word can end only `raise` responds with an error code. -/
theorem errorEntryIsPrecise : Obligations.ErrorEntryIsPrecise := by
  intro s w rest hp
  rcases step_command_cases hp with hstep | ⟨e, -, -, hstep⟩ | ⟨val, t, hstep, hport, hresps⟩
  · exact ⟨_, ⟨ccDropped, 0⟩, hstep, by rw [respond_port, hp, List.tail_cons], rfl, fun _ h => absurd h (by decide)⟩
  · refine ⟨_, ⟨e.cc, 0⟩, hstep, by rw [respond_port, latchError_port, hp, List.tail_cons],
      by rw [respond_resps, latchError_resps], fun _ _ =>
        ⟨rfl, latchError_respond_sameData e w s, by rw [respond_cap, latchError_cap], fun he => ?clear, fun he => ?latched⟩⟩
    case clear =>
      rw [latchError_of_clear s e w he]
      exact ⟨(ErrorCode.cc_toNat e).symm, rfl⟩
    case latched =>
      rw [latchError_of_latched s e w he]
      exact ⟨rfl, rfl⟩
  · exact ⟨_, ⟨ccOk, val⟩, hstep, by rw [respond_port, hport, hp, List.tail_cons], by rw [respond_resps, hresps],
      fun (h : 1 ≤ ccOk.toNat) => absurd h (by decide)⟩

/-- Settles O12: a word that raises while an error is latched was not dropped, so its opcode is exempt. -/
theorem firstErrorSticks : Obligations.FirstErrorSticks := by
  intro s w rest hp he
  rcases step_command_cases hp with hstep | ⟨e, hd, hcause, hstep⟩ | ⟨val, t, hstep, -, hresps⟩
  · exact ⟨_, ⟨ccDropped, 0⟩, hstep, rfl, fun _ h => absurd h (by decide)⟩
  · have hop : (opcodeField w).toNat < 4 := hd.resolve_left he
    refine ⟨_, ⟨e.cc, 0⟩, hstep.trans (raise_of_latched e he), rfl, fun _ _ => ⟨opcodeField_toNat w ▸ hop, rfl, ?_⟩⟩
    rcases hcause.cases_of_exempt hop with ⟨rfl, hillegal⟩ | ⟨rfl, hrdreg⟩
    · exact .inl ⟨rfl, hillegal⟩
    · exact .inr ⟨rfl, hrdreg⟩
  · exact ⟨_, ⟨ccOk, val⟩, hstep, by rw [respond_resps, hresps], fun (h : 1 ≤ ccOk.toNat) => absurd h (by decide)⟩

end Machine

end Sys2Proof

/-!
SUPPORT and PROOFS. The round trip of encoding and decoding (spec/30_encoding.md, sections 1 to 3, 6).
-/

namespace Sys2Proof

/-- Settles O1, format by format. -/
theorem decodeOfEncode : Obligations.DecodeOfEncode := decode_encode

/-- Settles O2: the fields of the format and its must-be-zero bits make up the whole word. -/
theorem encodeOfDecode : Obligations.EncodeOfDecode := fun _ _ => encode_eq_of_decode

/-- Settles O5: each sample is the word the encoder writes for its command. -/
theorem sampleWordsDecode : Obligations.SampleWordsDecode :=
  ⟨decode_encode (.wrkey 5 0x7F), decode_encode (.rdo 43), decode_encode (.ark 14), decode_encode (.gfmul 0x57 0x83),
    decode_encode .keyexp, decode_encode .nop⟩

end Sys2Proof

/-!
SUPPORT and PROOFS. The laws of GF(2^8) and what rests on them (spec/40_gf_arithmetic.md R122; spec/41_block_transform.md
R131, R142). The inverse of `a` is `a ^ 254`, because the 255 bytes other than 0 are a group under `gfmul`.
-/

namespace Sys2Proof.Machine

/-! ### The field (R122) -/

/-- Multiplication by `a` from the right is linear and commutes with `xtime`, so it goes through the loop of `gfmul 1 b`. -/
theorem gfmul_comm (a b : Byte) : gfmul a b = gfmul b a := by
  have hloop : gfmul (gfmul 1#8 b) a = gfmul (gfmul 1#8 a) b :=
    map_gfmulLoop (f := (gfmul · a)) (fun x y => xor_gfmul x y a) (fun x => (xtime_gfmul x a).symm) 8 1#8 b
  rw [one_gfmul, one_gfmul] at hloop
  exact hloop.symm

@[simp] theorem gfmul_zero (a : Byte) : gfmul a 0#8 = 0#8 := by rw [gfmul_comm, zero_gfmul]

@[simp] theorem gfmul_one (a : Byte) : gfmul a 1#8 = a := by rw [gfmul_comm, one_gfmul]

/-- `a ^ 127`, each round a square and a product with `a`. -/
def fieldPower127 (a : Byte) : Byte := (fun p => gfmul a (gfmul p p))^[6] a

/-- `a ^ 254`: the field inverse of a byte other than 0, and 0 for 0. -/
def fieldInverse (a : Byte) : Byte := gfmul (fieldPower127 a) (fieldPower127 a)

theorem fieldInverse_zero : fieldInverse 0 = 0 := by decide +kernel

theorem gfmul_fieldInverse : ∀ a : Byte, a ≠ 0 → gfmul a (fieldInverse a) = 1 := by decide +kernel

/-- A byte has at most one inverse. -/
theorem inverse_unique {a b c : Byte} (hb : gfmul a b = 1) (hc : gfmul a c = 1) : c = b := calc
  c = gfmul (gfmul a b) c := by rw [hb]; exact (one_gfmul c).symm
  _ = gfmul b (gfmul a c) := by rw [gfmul_comm a b, gfmul_assoc]
  _ = b := by rw [hc]; exact gfmul_one b

/-- Settles O34: the product is commutative, hence its laws on one side hold on both, and `a ^ 254` is the inverse. -/
theorem fieldLaws : Obligations.FieldLaws :=
  ⟨gfmul_comm, gfmul_zero, gfmul_one, gfmul_xor, gfmul_assoc, fun a ha =>
    ⟨fieldInverse a, gfmul_fieldInverse a ha, fun _ => inverse_unique (gfmul_fieldInverse a ha)⟩⟩

/-! ### The construction of SBOX (R131) -/

/-- The affine map of R131. -/
def affineMap (y : Byte) : Byte :=
  y ^^^ y.rotateLeft 1 ^^^ y.rotateLeft 2 ^^^ y.rotateLeft 3 ^^^ y.rotateLeft 4 ^^^ 0x63

theorem sbox_eq_affineMap : ∀ x : Byte, sbox x = affineMap (fieldInverse x) := by decide +kernel

theorem eq_fieldInverse {x y : Byte} (h : x = 0 ∧ y = 0 ∨ gfmul x y = 1) : y = fieldInverse x := by
  rcases h with ⟨rfl, rfl⟩ | hxy
  · exact fieldInverse_zero.symm
  · have hx : x ≠ 0 := by
      rintro rfl
      exact absurd ((zero_gfmul y).symm.trans hxy) (by decide)
    exact inverse_unique (gfmul_fieldInverse x hx) hxy

theorem sbox_ne_self : ∀ x : Byte, sbox x ≠ x := by decide +kernel

theorem sbox_bijective : Function.Bijective sbox :=
  Function.bijective_iff_has_inverse.2 ⟨invSbox, invSbox_sbox, sbox_invSbox⟩

/-- Settles O35: the table entry by entry against the construction, and INVSBOX as the inverse of SBOX. -/
theorem sboxIsAffineOfInverse : Obligations.SboxIsAffineOfInverse :=
  ⟨fun x _ h => eq_fieldInverse h ▸ sbox_eq_affineMap x, sbox_ne_self, sbox_bijective⟩

/-- Settles O39: the matrices MIX and IMIX are inverse to each other. -/
theorem invMixColumnsInverts : Obligations.InvMixColumnsInverts := fun s =>
  ⟨invMixColumns_mixColumns s, mixColumns_invMixColumns s⟩

end Sys2Proof.Machine

/-!
SUPPORT and PROOFS. The alphabet read in both directions (spec/46_text_codec.md, section 1).
-/

namespace Sys2Proof.Machine

/-- Every byte with a value is the symbol of that value. -/
theorem alpha_symbolValue : ∀ ch : Byte, ∀ v ∈ symbolValue ch, alpha v = ch := by decide +kernel

theorem symbolValue_eq_some_iff {ch : Byte} {v : Nat} : symbolValue ch = some v ↔ v < 64 ∧ alpha v = ch := by
  constructor
  · exact fun h => ⟨symbolValue_lt h, alpha_symbolValue ch v h⟩
  · rintro ⟨hv, rfl⟩
    exact symbolValue_alpha v hv

/-- Settles O56: the two directions undo each other on the 64 symbols. -/
theorem alphabetAndValuesAgree : Obligations.AlphabetAndValuesAgree :=
  ⟨by decide, fun _ _ => symbolValue_eq_some_iff, symbolValue_padMark⟩

end Sys2Proof.Machine

/-!
SUPPORT and PROOFS. The chained mode in several loads, and back (spec/45_chaining.md R185, R186). The loops go through the
chunks of two sequences one after the other, and a sequence of whole chunks is its chunks in order.
-/

namespace Sys2Proof.Machine

/-! ### Chunks of sequences joined -/

theorem unchunks_append (bs cs : List Block) : unchunks (bs ++ cs) = unchunks bs ++ unchunks cs := List.flatMap_append

theorem bytesOfList_toList {n : Nat} {l : List Byte} (h : n ≤ l.length) : (bytesOfList n l).toList = l.take n :=
  List.ext_getElem (by simp [h]) fun i hi _ => by
    have hi : i < l.length := by simp at hi; omega
    simp [bytesOfList, hi]

/-- A sequence of whole chunks is its chunks in order. -/
theorem unchunks_chunks {m : Nat} {d : List Byte} (h : d.length = 16 * m) : unchunks (chunks m d) = d := by
  induction m generalizing d with
  | zero => exact (List.length_eq_zero_iff.1 h).symm
  | succ m ih =>
    rw [chunks, unchunks_cons, ih (by rw [List.length_drop]; omega), bytesOfList_toList (by omega), List.take_append_drop]

theorem chunks_unchunks_append (bs : List Block) (n : Nat) (e : List Byte) :
    chunks (bs.length + n) (unchunks bs ++ e) = bs ++ chunks n e := by
  induction bs with
  | nil => rw [List.length_nil, Nat.zero_add]; rfl
  | cons b bs ih =>
    rw [List.length_cons, Nat.add_right_comm, chunks, unchunks_cons, List.append_assoc, bytesOfList_toList_append,
      List.drop_left' b.length_toList, ih, List.cons_append]

/-- The chunks of two sequences joined, the first one of whole chunks. -/
theorem chunks_append {m : Nat} {d : List Byte} (h : d.length = 16 * m) (n : Nat) (e : List Byte) :
    chunks (m + n) (d ++ e) = chunks m d ++ chunks n e := by
  have happend := chunks_unchunks_append (chunks m d) n e
  rwa [chunks_length, unchunks_chunks h] at happend

/-! ### The loops on chunks -/

section

variable (rk : Bytes 240) (prev : Block)

theorem cbcEncryptChunks_append (ds es : List Block) :
    cbcEncryptChunks rk prev (ds ++ es) =
      ((cbcEncryptChunks rk prev ds).1 ++ (cbcEncryptChunks rk (cbcEncryptChunks rk prev ds).2 es).1,
        (cbcEncryptChunks rk (cbcEncryptChunks rk prev ds).2 es).2) := by
  induction ds generalizing prev with
  | nil => rfl
  | cons d ds ih => simp only [List.cons_append, cbcEncryptChunks_cons, ih]

theorem cbcDecryptChunks_append (ds es : List Block) :
    cbcDecryptChunks rk prev (ds ++ es) =
      ((cbcDecryptChunks rk prev ds).1 ++ (cbcDecryptChunks rk (cbcDecryptChunks rk prev ds).2 es).1,
        (cbcDecryptChunks rk (cbcDecryptChunks rk prev ds).2 es).2) := by
  induction ds generalizing prev with
  | nil => rfl
  | cons d ds ih => simp only [List.cons_append, cbcDecryptChunks_cons, ih]

/-- One link decrypted gives the chunk back, because the same chunk is combined before encryption and after decryption. -/
theorem decryptLink_encryptLink (d : Block) : decryptLink rk (encryptLink rk d prev) prev = d := by
  rw [decryptLink, encryptLink, decryptBlock_encryptBlock]
  exact bytes_ext fun n => by
    rw [xorBlock_getFin, xorBlock_getFin, BitVec.xor_assoc, BitVec.xor_self, BitVec.xor_zero]

theorem cbcDecryptChunks_cbcEncryptChunks (ds : List Block) :
    cbcDecryptChunks rk prev (cbcEncryptChunks rk prev ds).1 = (ds, (cbcEncryptChunks rk prev ds).2) := by
  induction ds generalizing prev with
  | nil => rfl
  | cons d ds ih => rw [cbcEncryptChunks_cons, cbcDecryptChunks_cons, ih, decryptLink_encryptLink]

end

/-! ### The modes on bytes -/

section

variable {m n : Nat} {d e : List Byte} (rk : Bytes 240) (cv : Block) (hd : d.length = 16 * m)
include hd

theorem cbcDecrypt_eq_unchunks :
    cbcDecrypt rk cv d =
      (unchunks (cbcDecryptChunks rk cv (chunks m d)).1, (cbcDecryptChunks rk cv (chunks m d)).2) := by
  rw [cbcDecrypt, hd, Nat.mul_div_cancel_left m (by decide)]

theorem cbcDecrypt_cbcEncrypt : cbcDecrypt rk cv (cbcEncrypt rk cv d).1 = (d, (cbcEncrypt rk cv d).2) := by
  rw [cbcDecrypt_eq_unchunks rk cv (cbcEncrypt_length rk cv hd), chunks_cbcEncrypt rk cv hd,
    cbcDecryptChunks_cbcEncryptChunks, unchunks_chunks hd, cbcEncrypt_eq rk cv hd]

variable (he : e.length = 16 * n)
include he

theorem append_length : (d ++ e).length = 16 * (m + n) := by rw [List.length_append, hd, he, Nat.mul_add]

theorem cbcEncrypt_append :
    cbcEncrypt rk cv (d ++ e) =
      ((cbcEncrypt rk cv d).1 ++ (cbcEncrypt rk (cbcEncrypt rk cv d).2 e).1,
        (cbcEncrypt rk (cbcEncrypt rk cv d).2 e).2) := by
  rw [cbcEncrypt_eq rk cv (append_length hd he), cbcEncrypt_eq rk cv hd, cbcEncrypt_eq rk _ he, chunks_append hd,
    cbcEncryptChunks_append, unchunks_append]

theorem cbcDecrypt_append :
    cbcDecrypt rk cv (d ++ e) =
      ((cbcDecrypt rk cv d).1 ++ (cbcDecrypt rk (cbcDecrypt rk cv d).2 e).1,
        (cbcDecrypt rk (cbcDecrypt rk cv d).2 e).2) := by
  rw [cbcDecrypt_eq_unchunks rk cv (append_length hd he), cbcDecrypt_eq_unchunks rk cv hd,
    cbcDecrypt_eq_unchunks rk _ he, chunks_append hd, cbcDecryptChunks_append, unchunks_append]

end

/-- Settles O54: the loops step through the chunks of one sequence after the other, and a link decrypted is taken back. -/
theorem cbcRoundTripAndContinuation : Obligations.CbcRoundTripAndContinuation := by
  have hwhole {d : List Byte} (h : d.length % 16 = 0) : d.length = 16 * (d.length / 16) := by omega
  refine ⟨fun rk cv d hd o c ho => ?_, fun rk cv d e hd he =>
    ⟨fun o₁ c₁ o₂ c₂ h₁ h₂ => ?_, fun o₁ c₁ o₂ c₂ h₁ h₂ => ?_⟩⟩
  · simpa only [ho] using cbcDecrypt_cbcEncrypt rk cv (hwhole hd)
  · simpa only [h₁, h₂] using cbcEncrypt_append rk cv (hwhole hd) (hwhole he)
  · simpa only [h₁, h₂] using cbcDecrypt_append rk cv (hwhole hd) (hwhole he)

end Sys2Proof.Machine

/-!
SUPPORT and PROOFS. What a step can do to the state (spec/10_state.md, sections 4, 6, 7; spec/30_encoding.md, section 4).
`Effect` says which writes a command may make when it executes, and `Ends` how a command word can end; what every step
keeps is read off the two.
-/

namespace Sys2Proof.Machine

/-! ### What a command writes when it executes -/

/-- The commands that return a value (R98); every other command responds with 0. -/
def valueMnemonics : List String := ["RDREG", "RDKEY", "RDRK", "RDBLK", "RDCV", "RDI", "RDO", "GFMUL"]

/-- The commands, SRESET aside, that write BLK (R23). -/
def blkMnemonics : List String :=
  ["WRBLK", "SUBB", "ISUBB", "SHROW", "ISHROW", "MIXC", "IMIXC", "ARK", "ENCBLK", "DECBLK"]

/-- The command `i`, executed in `s`, writes the state `t` and returns `val`. The lengths are those of R37: what is appended
to IBUF fits the capacity, and a result in OBUF fits it or is no longer than the content of IBUF. -/
inductive Effect (i : Instr) (s : State) : Word → State → Prop
  | nothing (hi : i = .nop) : Effect i s 0 s
  | value (val : Word) (hi : i.mnemonic ∈ valueMnemonics) : Effect i s val s
  | reset (hi : i = .sreset) : Effect i s 0 s.resetCore
  | unlatch (hi : i = .clrerr) : Effect i s 0 s.clearLatch
  | keyByte {a : BitVec 16} {b : Byte} (ha : a.toNat < 32) (hi : i = .wrkey a b) (he : s.err = 0) :
      Effect i s 0 { s with key := s.key.set a.toNat b, kvalid := false }
  | schedule (hi : i = .keyexp) (he : s.err = 0) : Effect i s 0 { s with rk := expandKey s.key, kvalid := true }
  | block (b : Block) (hi : i.mnemonic ∈ blkMnemonics) : Effect i s 0 { s with blk := b }
  | chainingValue (b : Block) (hi : i.mnemonic = "WRCV") : Effect i s 0 { s with cv := b }
  | append (bs : List Byte) (hi : i.mnemonic ∈ ["PUSHI", "APPO"])
      (hroom : s.ilen.toNat ≤ s.cap.toNat → s.ilen.toNat + bs.length ≤ s.cap.toNat) : Effect i s 0 (s.appendInput bs)
  | clear (hi : i = .clri) : Effect i s 0 s.clearInput
  | output (bs : List Byte) (hi : i.mnemonic ∈ ["PAD", "UNPAD", "B64ENC", "B64DEC"])
      (hroom : bs.length ≤ max s.ilen.toNat s.cap.toNat) : Effect i s 0 (s.setOutput bs)
  | chain (bs : List Byte) (b : Block) (hi : i.mnemonic ∈ ["CBCENC", "CBCDEC"])
      (hroom : bs.length ≤ max s.ilen.toNat s.cap.toNat) : Effect i s 0 { s.setOutput bs with cv := b }

/-- The command has executed with an effect of its own. -/
def HasEffect (i : Instr) (s : State) (r : Result) : Prop :=
  ∃ val t, r = complete val t ∧ Effect i s val t

theorem unpad_length_le {d r : List Byte} (h : unpad d = some r) : r.length ≤ d.length := by
  obtain ⟨p, -, rfl⟩ := unpad_eq_some_iff.1 h
  exact List.length_take_le' ..

section

variable {i : Instr} {s t : State} {val : Word}

/-- CBCENC and CBCDEC put out as many bytes as they take in (R180, R182). -/
theorem chainBuffer_effect {f : Bytes 240 → Block → List Byte → List Byte × Block} {w : Word}
    (hi : i.mnemonic ∈ ["CBCENC", "CBCDEC"])
    (hkeep : ∀ m, s.input.length = 16 * m → (f s.rk s.cv s.input).1.length = 16 * m) (he : s.err = 0)
    (hk : s.kvalid = true) (hlen : s.ilen.toNat % 16 = 0) : HasEffect i s (chainBuffer f w s) := by
  refine ⟨_, _, (chainBuffer_of_valid he hk).trans (if_neg (not_not_intro hlen)), .chain _ _ hi (le_max_of_le_left ?_)⟩
  rw [hkeep _ (input_length_of_whole hlen)]
  omega

theorem exec_effect_of_exempt (hop : i.opcode.toNat < 4) (hno : ∀ e, ¬ RaiseCause i s e) :
    HasEffect i s (exec i s) := by
  cases i with
  | nop => exact ⟨_, _, rfl, .nothing rfl⟩
  | sreset => exact ⟨_, _, rfl, .reset rfl⟩
  | clrerr => exact ⟨_, _, rfl, .unlatch rfl⟩
  | rdreg n =>
    obtain ⟨r, hr⟩ := Option.ne_none_iff_exists'.1 (mt (ctrlReg_eq_none_iff n).1 (hno .badAddress))
    exact ⟨_, _, exec_rdreg_of_some hr, .value _ (by simp [valueMnemonics, Instr.mnemonic])⟩
  | _ => exact absurd hop (by simp [Instr.opcode])

/-- With no error latched and no cause to raise, each command has an effect. -/
theorem exec_effect_of_clear (he : s.err = 0) (hno : ∀ e, ¬ RaiseCause i s e) : HasEffect i s (exec i s) := by
  have hkvalid (h : NeedsKeySchedule i) : s.kvalid = true :=
    Bool.eq_true_of_not_eq_false fun hk => hno .noKeySchedule ⟨hk, h⟩
  cases i with
  | nop | sreset | clrerr | rdreg _ => exact exec_effect_of_exempt (by simp [Instr.opcode]) hno
  | wrkey a b =>
    have ha : a.toNat < 32 := Nat.lt_of_not_le (hno .badAddress)
    exact ⟨_, _, unlessLatched_withIndex_of_lt he ha, .keyByte ha rfl he⟩
  | rdkey a | rdrk a | rdblk a | rdcv a | rdi a | rdo a =>
    exact ⟨_, _, unlessLatched_withIndex_of_lt he (Nat.lt_of_not_le (hno .badAddress)),
      .value _ (by simp [valueMnemonics, Instr.mnemonic])⟩
  | gfmul a b => exact ⟨_, _, unlessLatched_of_clear he, .value _ (by simp [valueMnemonics, Instr.mnemonic])⟩
  | wrblk a b =>
    exact ⟨_, _, unlessLatched_withIndex_of_lt he (Nat.lt_of_not_le (hno .badAddress)),
      .block _ (by simp [blkMnemonics, Instr.mnemonic])⟩
  | wrcv a b =>
    exact ⟨_, _, unlessLatched_withIndex_of_lt he (Nat.lt_of_not_le (hno .badAddress)), .chainingValue _ rfl⟩
  | subb | isubb | shrow | ishrow | mixc | imixc => exact ⟨_, _, unlessLatched_of_clear he, .block _ (by decide)⟩
  | ark r =>
    have hr : r.toNat ≤ 14 := Nat.le_of_not_lt (hno .badAddress)
    exact ⟨_, _, exec_ark_of_valid he (Nat.lt_succ_of_le hr) (hkvalid (by simp [NeedsKeySchedule, hr])),
      .block _ (by simp [blkMnemonics, Instr.mnemonic])⟩
  | encblk | decblk =>
    exact ⟨_, _, cipherCommand_of_valid he (hkvalid (by simp [NeedsKeySchedule])), .block _ (by decide)⟩
  | keyexp => exact ⟨_, _, unlessLatched_of_clear he, .schedule rfl he⟩
  | pushi b =>
    have hne : s.ilen.toNat ≠ s.cap.toNat := fun h => hno .overflow (BitVec.eq_of_toNat_eq h)
    exact ⟨_, _, exec_pushi_of_not_full he (hno .overflow),
      .append _ (by simp [Instr.mnemonic]) fun hle => Nat.lt_of_le_of_ne hle hne⟩
  | appo a =>
    have hoff : a.toNat ≤ s.olen.toNat := Nat.le_of_not_lt (hno .badAddress)
    have hroom : s.ilen.toNat + (s.olen.toNat - a.toNat) ≤ s.cap.toNat :=
      Nat.le_of_not_lt fun h => hno .overflow ⟨hoff, h⟩
    exact ⟨_, _, exec_appo_of_le he hoff hroom, .append _ (by simp [Instr.mnemonic]) fun _ => by
      rwa [output_drop_length]⟩
  | clri => exact ⟨_, _, unlessLatched_of_clear he, .clear rfl⟩
  | pad =>
    have hroom := Nat.le_of_not_lt (mt resultTooLong_pad_iff.2 (hno .overflow))
    exact ⟨_, _, exec_pad_of_le he hroom, .output _ (by decide) (le_max_of_le_right (by rwa [pad_length, input_length]))⟩
  | unpad =>
    obtain ⟨r, hr⟩ := Option.ne_none_iff_exists'.1 fun hpad => hno .paddingError ⟨rfl, hpad⟩
    exact ⟨_, _, exec_unpad_of_some he hr,
      .output _ (by decide) (le_max_of_le_left ((unpad_length_le hr).trans_eq (input_length s)))⟩
  | b64enc =>
    have hroom : textLength s.ilen.toNat ≤ s.cap.toNat := Nat.le_of_not_lt (hno .overflow)
    exact ⟨_, _, (unlessLatched_of_clear he).trans (requireRoom_of_le hroom),
      .output _ (by decide) (le_max_of_le_right (by rwa [textEncode_length, input_length]))⟩
  | b64dec =>
    exact ⟨_, _, unlessLatched_of_clear he,
      .output _ (by decide) (le_max_of_le_left ((textDecode_length_le _).trans_eq (input_length s)))⟩
  | cbcenc =>
    have hk := hkvalid (by simp [NeedsKeySchedule])
    exact chainBuffer_effect (by decide) (fun _ h => cbcEncrypt_length _ _ h) he hk
      (of_not_not fun hlen => hno .lengthError ⟨hk, by simp, hlen⟩)
  | cbcdec =>
    have hk := hkvalid (by simp [NeedsKeySchedule])
    exact chainBuffer_effect (by decide) (fun _ h => cbcDecrypt_length _ _ h) he hk
      (of_not_not fun hlen => hno .lengthError ⟨hk, by simp, hlen⟩)

/-- A command that is not dropped and has no cause to raise has its effect. -/
theorem exec_effect (hd : s.err = 0 ∨ i.opcode.toNat < 4) (hno : ∀ e, ¬ RaiseCause i s e) :
    HasEffect i s (exec i s) :=
  hd.elim (fun he => exec_effect_of_clear he hno) (fun hop => exec_effect_of_exempt hop hno)

/-! ### What an effect leaves alone -/

theorem Effect.port_eq (h : Effect i s val t) : t.port = s.port := by cases h <;> rfl

theorem Effect.resps_eq (h : Effect i s val t) : t.resps = s.resps := by cases h <;> rfl

theorem Effect.val_eq_zero (h : Effect i s val t) (hi : i.mnemonic ∉ valueMnemonics) : val = 0 := by
  cases h with
  | value _ hval => exact absurd hval hi
  | _ => rfl

/-- Only SRESET and CLRERR write the latch when they execute (R28). -/
theorem Effect.latch_eq (h : Effect i s val t) (hsreset : i ≠ .sreset) (hclrerr : i ≠ .clrerr) :
    t.err = s.err ∧ t.errcmd = s.errcmd := by
  cases h with
  | reset hi => exact absurd hi hsreset
  | unlatch hi => exact absurd hi hclrerr
  | _ => exact ⟨rfl, rfl⟩

/-- No effect latches an error. -/
theorem Effect.err_eq_zero (h : Effect i s val t) (he : s.err = 0) : t.err = 0 := by
  cases h with
  | reset _ | unlatch _ => rfl
  | _ => exact he

/-- Only SRESET, a KEYEXP and a WRKEY write KVALID (R27). -/
theorem Effect.kvalid_eq (h : Effect i s val t) (hsreset : i ≠ .sreset) (hkeyexp : ¬ (i = .keyexp ∧ s.err = 0))
    (hwrkey : ¬ ∃ (a : BitVec 16) (b : Byte), i = .wrkey a b ∧ a.toNat < 32 ∧ s.err = 0) : t.kvalid = s.kvalid := by
  cases h with
  | reset hi => exact absurd hi hsreset
  | schedule hi he => exact absurd ⟨hi, he⟩ hkeyexp
  | keyByte ha hi he => exact absurd ⟨_, _, hi, ha, he⟩ hwrkey
  | _ => rfl

end

/-! ### How a command word ends (R98, R257, R259) -/

/-- The word `w` ends in `s` with the next state `t`: it is dropped, it raises an error that it has a cause for, or it
executes as a command. -/
inductive Ends (w : Word) (s : State) : State → Prop
  | dropped (he : s.err ≠ 0) (hop : 4 ≤ (opcodeField w).toNat) : Ends w s (s.respond ccDropped 0)
  | raised {e : ErrorCode} (hcause : WordCause w s e) : Ends w s ((s.latchError e w).respond e.cc 0)
  | executed {i : Instr} {val : Word} {t : State} (hdecode : decode w = .ok i) (heffect : Effect i s val t) :
      Ends w s (t.respond ccOk val)

section

variable {s t : State} {w : Word} {rest : List HostEvent}

/-- Every command ends, in every state (R6). -/
theorem exec_ends (i : Instr) (s : State) : ∃ t, exec i s = .next t ∧ Ends (encode i) s t := by
  have hop : opcodeField (encode i) = i.opcode := opcodeField_of_commandOf (decode_ok_cases (decode_encode i)).1
  by_cases hd : s.err ≠ 0 ∧ 4 ≤ i.opcode.toNat
  · exact ⟨_, exec_of_dropped hd.1 hd.2, .dropped hd.1 (hop ▸ hd.2)⟩
  · have hd : s.err = 0 ∨ i.opcode.toNat < 4 := (not_and_or.1 hd).imp of_not_not Nat.lt_of_not_le
    by_cases hcause : ∃ e, RaiseCause i s e
    · obtain ⟨e, he⟩ := hcause
      exact ⟨_, exec_of_cause hd he, .raised (.inr ⟨i, decode_encode i, he⟩)⟩
    · obtain ⟨val, t, hexec, heffect⟩ := exec_effect hd (not_exists.1 hcause)
      exact ⟨_, hexec, .executed (decode_encode i) heffect⟩

/-- Every word ends, in every state (R6). -/
theorem step_ends (hp : s.port = .command w :: rest) : ∃ t, step s = .next t ∧ Ends w s t := by
  cases hw : decode w with
  | ok i =>
    obtain ⟨t, hexec, hends⟩ := exec_ends i s
    exact ⟨t, (step_of_decode_ok hp hw).trans hexec, encode_eq_of_decode hw ▸ hends⟩
  | error d =>
    rw [step_of_decode_error hp hw]
    by_cases hd : s.err ≠ 0 ∧ 4 ≤ (opcodeField w).toNat
    · exact ⟨_, rejectWord_of_dropped hd.1 hd.2, .dropped hd.1 hd.2⟩
    · exact ⟨_, rejectWord_of_not_dropped hd, .raised (.inl ⟨rfl, d, hw⟩)⟩

theorem ends_of_step (hp : s.port = .command w :: rest) (ht : step s = .next t) : Ends w s t := by
  obtain ⟨u, hu, hends⟩ := step_ends hp
  cases hu.symm.trans ht
  exact hends

theorem step_of_nil (hp : s.port = []) : step s = .next s := by
  cases s
  subst hp
  rfl

theorem step_of_reset (hp : s.port = .reset :: rest) : step s = .next { s.resetCore with port := rest } := by
  cases s
  subst hp
  rfl

/-- The one event of a step, if there is one, and what it does. -/
theorem step_cases (ht : step s = .next t) :
    (s.port = [] ∧ t = s) ∨ (∃ rest, s.port = .reset :: rest ∧ t = { s.resetCore with port := rest }) ∨
      ∃ w rest, s.port = .command w :: rest ∧ Ends w s t := by
  match hp : s.port with
  | [] =>
    cases (step_of_nil hp).symm.trans ht
    exact .inl ⟨rfl, rfl⟩
  | .reset :: rest =>
    cases (step_of_reset hp).symm.trans ht
    exact .inr (.inl ⟨rest, rfl, rfl⟩)
  | .command w :: rest => exact .inr (.inr ⟨w, rest, rfl, ends_of_step hp ht⟩)

end

/-! ### The invariant (R31, R37) -/

section

variable {i : Instr} {s t : State} {w val : Word} {e : ErrorCode}

theorem inv_resetWith {cap : BitVec 16} (h : Config.bufcapMin ≤ cap.toNat) : Inv (State.resetWith cap) where
  cap_ge := h
  ilen_le := Nat.zero_le _
  olen_le := Nat.zero_le _
  err_le := Nat.zero_le _
  err_errcmd := iff_of_true rfl rfl
  kvalid_rk := fun h => absurd h Bool.false_ne_true
  kvalid_err := fun h => absurd h Bool.false_ne_true
  ibuf_wf := rfl
  ibuf_below := rfl
  obuf_wf := rfl
  obuf_below := rfl

/-- Settles O19: 4096 is one of the capacities from 64 on. -/
theorem resetHasInvariant : Obligations.ResetHasInvariant :=
  ⟨inv_resetWith (by decide), fun _ => inv_resetWith⟩

theorem Inv.resetCore (h : Inv s) : Inv s.resetCore :=
  { inv_resetWith h.cap_ge with }

theorem Inv.respond (h : Inv s) (cc : Byte) (val : Word) : Inv (s.respond cc val) :=
  { h with }

theorem Inv.clearLatch (h : Inv s) : Inv s.clearLatch :=
  { h with
    err_le := Nat.zero_le _
    err_errcmd := iff_of_true rfl rfl
    kvalid_err := fun _ => show (0 : BitVec 4) ≠ 3 by decide }

theorem Inv.clearInput (h : Inv s) : Inv s.clearInput :=
  { h with
    ilen_le := Nat.zero_le _
    ibuf_wf := rfl
    ibuf_below := rfl }

/-- An append that fits the capacity does not wrap ILEN. -/
theorem Inv.appendInput (h : Inv s) {bs : List Byte} (hroom : s.ilen.toNat + bs.length ≤ s.cap.toNat) :
    Inv (s.appendInput bs) := by
  have hlen : (s.appendInput bs).ilen.toNat = s.ilen.toNat + bs.length := by
    rw [appendInput_ilen, BitVec.toNat_add, BitVec.toNat_ofNat, Nat.add_mod_mod]
    exact Nat.mod_eq_of_lt (hroom.trans_lt s.cap.isLt)
  exact { h with
    ilen_le := hlen.trans_le hroom
    ibuf_wf := appendInput_wf bs s h.ibuf_wf
    ibuf_below := writeList_below bs _ hlen.ge (below_mono (hlen.ge.trans' (Nat.le_add_right ..)) h.ibuf_below) }

/-- A result that fits the capacity does not wrap OLEN. -/
theorem Inv.setOutput (h : Inv s) {bs : List Byte} (hroom : bs.length ≤ s.cap.toNat) : Inv (s.setOutput bs) := by
  have hlen : (s.setOutput bs).olen.toNat = bs.length :=
    (BitVec.toNat_ofNat ..).trans (Nat.mod_eq_of_lt (hroom.trans_lt s.cap.isLt))
  exact { h with
    olen_le := hlen.trans_le hroom
    obuf_wf := setOutput_wf bs s
    obuf_below := ofList_below bs 0 ((Nat.zero_add _).trans_le hlen.ge) }

theorem ErrorCode.code_toNat_le (e : ErrorCode) : e.code.toNat ≤ 6 := by cases e <;> decide

theorem ErrorCode.code_ne_zero (e : ErrorCode) : e.code ≠ 0 := by cases e <;> decide

/-- Taking an error keeps ERR and ERRCMD together, because the word saved is not 0. -/
theorem Inv.latchError (h : Inv s) (hw : w ≠ 0) (hk : s.kvalid = true → e ≠ .noKeySchedule) :
    Inv (s.latchError e w) := by
  by_cases he : s.err = 0
  · rw [latchError_of_clear s e w he]
    exact { h with
      err_le := e.code_toNat_le
      err_errcmd := iff_of_false e.code_ne_zero hw
      kvalid_err := fun hkvalid hcode => hk hkvalid (ErrorCode.cc_injective (congrArg (BitVec.setWidth 8) hcode)) }
  · rwa [latchError_of_latched s e w he]

/-- The word 0 is NOP, which raises nothing. -/
theorem WordCause.ne_zero (h : WordCause w s e) : w ≠ 0 := by
  rintro rfl
  have hnop : decode 0 = .ok .nop := decode_encode .nop
  rcases h with ⟨-, d, hd⟩ | ⟨i, hi, hcause⟩
  · cases hnop.symm.trans hd
  · cases hnop.symm.trans hi
    obtain ⟨-, n, -, hn⟩ := hcause.eq_rdreg_of_exempt (by decide)
    cases hn

theorem WordCause.ne_noKeySchedule (h : WordCause w s e) (hk : s.kvalid = true) : e ≠ .noKeySchedule := by
  rintro rfl
  rcases h with ⟨hillegal, -⟩ | ⟨i, -, hkvalid, -⟩
  · cases hillegal
  · exact absurd (hk.symm.trans hkvalid) (by decide)

theorem Effect.inv (h : Effect i s val t) (hs : Inv s) : Inv t := by
  have hmax : max s.ilen.toNat s.cap.toNat = s.cap.toNat := max_eq_right hs.ilen_le
  cases h with
  | nothing _ | value _ _ => exact hs
  | reset _ => exact hs.resetCore
  | unlatch _ => exact hs.clearLatch
  | keyByte _ _ _ =>
    exact { hs with
      kvalid_rk := fun h => absurd h Bool.false_ne_true
      kvalid_err := fun h => absurd h Bool.false_ne_true }
  | schedule _ he =>
    exact { hs with
      kvalid_rk := fun _ => rfl
      kvalid_err := fun _ => he.trans_ne (ErrorCode.code_ne_zero _).symm }
  | block _ _ | chainingValue _ _ => exact { hs with }
  | append _ _ hroom => exact hs.appendInput (hroom hs.ilen_le)
  | clear _ => exact hs.clearInput
  | output _ _ hroom => exact hs.setOutput (hmax ▸ hroom)
  | chain _ _ _ hroom => exact { hs.setOutput (hmax ▸ hroom) with }

theorem Ends.inv (h : Ends w s t) (hs : Inv s) : Inv t := by
  cases h with
  | dropped _ _ => exact hs.respond ..
  | raised hcause => exact (hs.latchError hcause.ne_zero hcause.ne_noKeySchedule).respond ..
  | executed _ heffect => exact (heffect.inv hs).respond ..

end

/-- Settles O18: an idle step keeps the state, the hardware reset resets it, and each way a word can end keeps the
invariant. -/
theorem stepKeepsInvariant : Obligations.StepKeepsInvariant := by
  intro s t hs ht
  rcases step_cases ht with ⟨-, rfl⟩ | ⟨rest, -, rfl⟩ | ⟨w, rest, -, hends⟩
  · exact hs
  · exact { hs.resetCore with }
  · exact hends.inv hs

/-! ### The response (R98, R250) -/

section

variable {s t : State} {w : Word}

/-- The response to the word `w` in the state `s` is one that R98, R250 and R257 allow. -/
structure Response.Allowed (r : Response) (w : Word) (s : State) : Prop where
  cc_mem : r.cc ∈ ([0x00, 0x01, 0x02, 0x03, 0x04, 0x05, 0x06, 0x0F] : List Byte)
  val_of_error : r.cc ≠ 0 → r.val = 0
  latched_of_dropped : r.cc = 0x0F → s.err ≠ 0
  val_of_command : ∀ i, decode w = .ok i → i.mnemonic ∉ valueMnemonics → r.val = 0

theorem ErrorCode.cc_mem (e : ErrorCode) : e.cc ∈ ([0x00, 0x01, 0x02, 0x03, 0x04, 0x05, 0x06, 0x0F] : List Byte) := by
  cases e <;> decide

/-- A word is taken off the port and answered once, whatever way it ends. -/
theorem Ends.response (h : Ends w s t) :
    ∃ r, t.port = s.port.tail ∧ t.resps = s.resps ++ [r] ∧ r.Allowed w s := by
  cases h with
  | dropped he _ => exact ⟨⟨ccDropped, 0⟩, rfl, rfl, by decide, fun _ => rfl, fun _ => he, fun _ _ _ => rfl⟩
  | raised _ =>
    exact ⟨_, by rw [respond_port, latchError_port], by rw [respond_resps, latchError_resps], ErrorCode.cc_mem _,
      fun _ => rfl, fun h => absurd h (ErrorCode.cc_ne_ccDropped _), fun _ _ _ => rfl⟩
  | @executed i val u hdecode heffect =>
    refine ⟨⟨ccOk, val⟩, by rw [respond_port, heffect.port_eq], by rw [respond_resps, heffect.resps_eq],
      List.mem_cons_self, fun h => absurd rfl h, fun h => absurd h (show ccOk ≠ ccDropped by decide), fun j hj hval => ?_⟩
    cases hdecode.symm.trans hj
    exact heffect.val_eq_zero hval

end

/-- Settles O7: every word ends, with a response that is allowed. -/
theorem everyCommandEndsWithOneResponse : Obligations.EveryCommandEndsWithOneResponse := by
  intro s w rest hp
  obtain ⟨t, ht, hends⟩ := step_ends hp
  obtain ⟨r, hport, hresps, hcc, herror, hdropped, hcommand⟩ := hends.response
  exact ⟨t, r, ht, by rw [hport, hp, List.tail_cons], hresps, hcc, herror, hdropped, hcommand⟩

/-- Settles O6: the step is exec of the decoded command, which ends with a response. -/
theorem stepRunsDecodedCommand : Obligations.StepRunsDecodedCommand := by
  intro s w rest i hp hw
  obtain ⟨t, ht, hends⟩ := exec_ends i s
  obtain ⟨r, hport, hresps, -⟩ := hends.response
  exact ⟨step_of_decode_ok hp hw, t, r, ht, by rw [hport, hp, List.tail_cons], hresps⟩

/-- Settles O9: with no event the step is idle, and the hardware reset sets every register to 0. -/
theorem stepIdleAndHardwareReset : Obligations.StepIdleAndHardwareReset :=
  ⟨fun _ => step_of_nil, fun _ _ hp => ⟨_, step_of_reset hp, replicate_getFin 0, replicate_getFin 0, replicate_getFin 0,
    replicate_getFin 0, rfl, rfl, rfl, rfl, rfl, rfl, rfl, rfl, rfl, rfl⟩⟩

/-! ### The error latch (R28) -/

section

variable {s t : State} {w : Word}

/-- A latched error stays, unless the word is SRESET's or CLRERR's. -/
theorem Ends.latch_of_latched (h : Ends w s t) (he : s.err ≠ 0) (hsreset : w ≠ 0x01000000) (hclrerr : w ≠ 0x02000000) :
    t.err = s.err ∧ t.errcmd = s.errcmd := by
  cases h with
  | dropped _ _ => exact ⟨rfl, rfl⟩
  | raised _ => rw [latchError_of_latched _ _ _ he]; exact ⟨rfl, rfl⟩
  | executed hdecode heffect =>
    have hencode := encode_eq_of_decode hdecode
    refine heffect.latch_eq ?_ ?_
    · rintro rfl
      exact hsreset hencode.symm
    · rintro rfl
      exact hclrerr hencode.symm

/-- With no error latched, only a word that raises latches one. -/
theorem Ends.latch_of_clear (h : Ends w s t) (he : s.err = 0) (hne : t.err ≠ 0) :
    t.errcmd = w ∧ t.resps = s.resps ++ [⟨t.err.setWidth 8, 0⟩] ∧ 1 ≤ t.err.toNat ∧ t.err.toNat ≤ 6 := by
  cases h with
  | dropped hlatched _ => exact absurd he hlatched
  | @raised e _ =>
    rw [latchError_of_clear _ _ _ he]
    exact ⟨rfl, rfl, Nat.pos_of_ne_zero fun h => e.code_ne_zero (BitVec.eq_of_toNat_eq h), e.code_toNat_le⟩
  | executed _ heffect => exact absurd (heffect.err_eq_zero he) hne

end

/-- Settles O13: what each kind of step does to the latch. -/
theorem errorLatchChangesOnlyBy : Obligations.ErrorLatchChangesOnlyBy := by
  intro s t ht
  refine ⟨fun he hport => ?_, fun rest hport => ?_, fun he hne => ?_⟩
  · rcases step_cases ht with ⟨-, rfl⟩ | ⟨rest, hp, -⟩ | ⟨w, rest, hp, hends⟩
    · exact ⟨rfl, rfl⟩
    · exact absurd hp (hport rest).1
    · obtain ⟨-, hsreset, hclrerr⟩ := hport rest
      exact hends.latch_of_latched he (fun hw => hsreset (hw ▸ hp)) (fun hw => hclrerr (hw ▸ hp))
  · rcases hport with hp | hp | hp
    · cases (step_of_reset hp).symm.trans ht
      exact ⟨rfl, rfl⟩
    · cases ((step_of_decode_ok hp (decode_encode .sreset)).trans (exec_sreset s)).symm.trans ht
      exact ⟨rfl, rfl⟩
    · cases ((step_of_decode_ok hp (decode_encode .clrerr)).trans (exec_clrerr s)).symm.trans ht
      exact ⟨rfl, rfl⟩
  · rcases step_cases ht with ⟨-, rfl⟩ | ⟨rest, -, rfl⟩ | ⟨w, rest, hp, hends⟩
    · exact absurd he hne
    · exact absurd rfl hne
    · exact ⟨w, rest, hp, hends.latch_of_clear he hne⟩

/-! ### KVALID (R27) -/

section

variable {s t : State} {w : Word} {rest : List HostEvent}

/-- The word of a WRKEY with an index up to 31, in terms of its fields (R91). -/
def IsWrkeyInRange (w : Word) : Prop := w.toNat / 2 ^ 24 = 0x10 ∧ w.toNat / 2 ^ 8 % 2 ^ 16 ≤ 31

theorem IsWrkeyInRange.decode_and_index_lt (h : IsWrkeyInRange w) :
    decode w = .ok (.wrkey (addr16Field w) (imm8Field w)) ∧ (addr16Field w).toNat < 32 := by
  obtain ⟨hop, ha⟩ := h
  rw [← opcodeField_toNat] at hop
  rw [← addr16Field_toNat] at ha
  exact ⟨decode_of_commandOf (by rw [commandOf, hop]; rfl) rfl, Nat.lt_succ_of_le ha⟩

theorem isWrkeyInRange_encode {a : BitVec 16} {b : Byte} (ha : a.toNat < 32) : IsWrkeyInRange (encode (.wrkey a b)) := by
  rw [IsWrkeyInRange, encode, encodeAI_toNat]
  have hop : (0x10 : Byte).toNat = 0x10 := rfl
  omega

/-- A WRKEY that executes clears KVALID and leaves RK alone. -/
theorem kvalid_of_wrkey (hp : s.port = .command w :: rest) (hw : IsWrkeyInRange w) (he : s.err = 0)
    (ht : step s = .next t) : t.kvalid = false ∧ t.rk = s.rk := by
  obtain ⟨hdecode, ha⟩ := hw.decode_and_index_lt
  cases ((step_of_decode_ok hp hdecode).trans (unlessLatched_withIndex_of_lt he ha)).symm.trans ht
  exact ⟨rfl, rfl⟩

/-- Every word but KEYEXP, WRKEY and SRESET leaves KVALID alone. -/
theorem Ends.kvalid_eq (h : Ends w s t) (hkeyexp : ¬ (w = 0x28000000 ∧ s.err = 0))
    (hwrkey : ¬ (IsWrkeyInRange w ∧ s.err = 0)) (hsreset : w ≠ 0x01000000) : t.kvalid = s.kvalid := by
  cases h with
  | dropped _ _ => rfl
  | raised _ => rw [respond_kvalid, latchError_kvalid]
  | executed hdecode heffect =>
    obtain rfl := encode_eq_of_decode hdecode
    refine heffect.kvalid_eq ?_ ?_ ?_
    · rintro rfl
      exact hsreset rfl
    · rintro ⟨rfl, he⟩
      exact hkeyexp ⟨rfl, he⟩
    · rintro ⟨a, b, rfl, ha, he⟩
      exact hwrkey ⟨isWrkeyInRange_encode ha, he⟩

end

/-- Settles O14: the three words that write KVALID one by one, the words that leave it alone, and the hardware reset. -/
theorem kvalidChangesOnlyBy : Obligations.KvalidChangesOnlyBy := by
  refine ⟨fun s w rest hp => ?_, fun s rest hp => ⟨_, step_of_reset hp, rfl⟩⟩
  obtain ⟨t, ht, hends⟩ := step_ends hp
  refine ⟨t, ht, ?keyexp, fun ⟨hop, ha, he⟩ => kvalid_of_wrkey hp ⟨hop, ha⟩ he ht, ?sreset, fun hkeyexp hwrkey =>
    hends.kvalid_eq hkeyexp fun ⟨⟨hop, ha⟩, he⟩ => hwrkey ⟨hop, ha, he⟩⟩
  case keyexp =>
    rintro ⟨rfl, he⟩
    cases ((step_of_decode_ok hp (decode_encode .keyexp)).trans (exec_keyexp_of_clear he)).symm.trans ht
    rfl
  case sreset =>
    rintro rfl
    cases ((step_of_decode_ok hp (decode_encode .sreset)).trans (exec_sreset s)).symm.trans ht
    rfl

/-! ### Which command writes which state (R38) -/

/-- Settles O20: a word that is dropped or raises leaves the data alone, and an effect writes its own state only. -/
theorem commandsWriteOnlyTheirState : Obligations.CommandsWriteOnlyTheirState := by
  intro i s
  obtain ⟨t, ht, hends⟩ := exec_ends i s
  refine ⟨t, ht, ?_⟩
  cases hends with
  | dropped _ _ => simp
  | raised _ => simp
  | @executed j val u hdecode heffect =>
    obtain rfl : i = j := Except.ok.inj ((decode_encode i).symm.trans hdecode)
    cases heffect with
    | nothing _ | value _ _ | unlatch _ => simp
    | reset hi | clear hi | keyByte _ hi _ | schedule hi _ => simp [hi, Instr.mnemonic]
    | chainingValue _ hi => simp [hi]
    | block _ hi =>
      simp [blkMnemonics] at hi ⊢
      tauto
    | append _ hi _ | output _ hi _ | chain _ _ hi _ =>
      simp at hi ⊢
      tauto

end Sys2Proof.Machine
